-- ==== Sys2Proof/Word.lean ====
section
/-! DEFINITION. The two value types of the notation (spec/00_scope.md R12): a byte is 8 bits, a word is 32 bits, and
all arithmetic on words is modulo 2^32 (which is `BitVec`'s own addition). -/

namespace Sys2Proof

/-- A byte: 8 bits, an unsigned value 0 to 255 (R12). -/
abbrev Byte := BitVec 8

/-- A word: 32 bits, an unsigned value 0 to 2^32 - 1 (R12). -/
abbrev Word := BitVec 32

end Sys2Proof
end

