-- ==== Sys2Proof/Config.lean ====
section
/-! DEFINITION. What is fixed for the block and for the host that drives it: the constants of spec/00_scope.md R8 and R10
gathered in one record each, and the two open values, which have no body and about which nothing can be proved. -/

namespace Sys2Proof.Config

/-- `SEED`, the start value of the running sum: the source gives no value, so it is any 32-bit word (R9, D2; log 1). -/
opaque seed : Word

/-- The four bytes `LANE[0..3]` that the `n`-th reset leaves, counted from 0: "unspecified (any four bytes)"
(spec/10_state.md R27, U10; log 4). -/
opaque laneAfterReset (n : Nat) : Vector Byte 4

/-- The constants of the block, named as R8 names them. -/
structure Constants where
  /-- `SEED` -/
  seed : Word
  /-- `WORD_BYTES`: bytes per checksum word. -/
  wordBytes : Nat
  /-- `PAYLOAD_SIZE`: bytes of payload in a `DATA` frame. -/
  payloadSize : Nat
  /-- `PAD_BYTE`: the value that right-pads a short payload. -/
  padByte : Byte
  /-- `CMD_START` -/
  cmdStart : Word
  /-- `CMD_DATA` -/
  cmdData : Word
  /-- `CMD_RESET` -/
  cmdReset : Word
  /-- `CMD_BYTES`: bytes of the command field. -/
  cmdBytes : Nat
  /-- `CS_BYTES`: bytes of the checksum field. -/
  csBytes : Nat
  /-- `CTRL_FRAME_BYTES`: length of a `START` or `RESET` frame. -/
  ctrlFrameBytes : Nat
  /-- `DATA_FRAME_BYTES`: length of a `DATA` frame. -/
  dataFrameBytes : Nat
  deriving DecidableEq, Repr

/-- The block's constants (R8). The literals are the spec's and unaudited (D4, N13; log 15). -/
def constants : Constants where
  seed := seed
  wordBytes := 4
  payloadSize := 64
  padByte := 0xFF
  cmdStart := 0x00000000
  cmdData := 0x00000001
  cmdReset := 0x00000002
  cmdBytes := 4
  csBytes := 4
  ctrlFrameBytes := 4
  dataFrameBytes := 72

/-- The constants of the surrounding software (R10). -/
structure HostConstants where
  /-- `HEADER_SIZE` -/
  headerSize : Nat
  /-- `HDR_META_BYTES` -/
  hdrMetaBytes : Nat
  /-- `HDR_PAD_BYTES` -/
  hdrPadBytes : Nat
  /-- `HDR_LOADED` -/
  hdrLoaded : Word
  /-- `HDR_VERSION` -/
  hdrVersion : Word
  /-- `ACK_BYTES` -/
  ackBytes : Nat
  /-- `NACK` -/
  nack : Int
  deriving DecidableEq, Repr

/-- The host's constants (R10). -/
def host : HostConstants where
  headerSize := 4096
  hdrMetaBytes := 16
  hdrPadBytes := 4080
  hdrLoaded := 0
  hdrVersion := 1
  ackBytes := 4
  nack := -1

end Sys2Proof.Config
end

