-- ==== Sys2Proof/Syntax.lean ====
section
/-! DEFINITION. The operation set (spec/00_scope.md R3): one constructor per row of spec/opcode_table.json; and the request
as the request port carries it (spec/30_encoding.md R52, R53). -/

namespace Sys2Proof

/-- The six primitive operations (R3, R24, R59). -/
inductive Instr where
  /-- `CS.INIT`: start a new checksum (R64). -/
  | csInit
  /-- `CS.BYTE b`: absorb one input byte (R65). -/
  | csByte (b : Byte)
  /-- `CS.FINISH`: deliver the checksum (R66). -/
  | csFinish
  /-- `PF.START`: emit a `START` frame (R78). -/
  | pfStart
  /-- `PF.DATA p`: emit a `DATA` frame carrying the payload `p`, a byte sequence of any length (R79, D25). -/
  | pfData (payload : List Byte)
  /-- `PF.RESET`: emit a `RESET` frame (R80). -/
  | pfReset
  deriving DecidableEq, Repr

/-- A request as bits on the request port (R24). -/
inductive Request where
  /-- A CE request: the 10-bit value `ce_req`, selector in bits 9:8, data byte in bits 7:0 (R52). -/
  | ce (ceReq : BitVec 10)
  /-- A PFE request: the 32-bit command identifier `pf_cmd` and the payload operand (R53). -/
  | pfe (pfCmd : Word) (payload : List Byte)
  deriving DecidableEq, Repr

end Sys2Proof
end

