-- ==== Sys2Proof/Decode.lean ====
section
/-! DEFINITION. Decoding a request from its bits, total and refusing reserved selectors by name (spec/30_encoding.md R52 to
R56); the encoder written from the same tables; and the opcode table of spec/opcode_table.json as rows of match and mask
(R61). -/

namespace Sys2Proof

/-- Why a request selects no operation. -/
inductive DecodeError where
  /-- `ce_op = 3` (R54). -/
  | reservedCeOp
  /-- `pf_cmd` is none of 0, 1 and 2 (R55). -/
  | reservedPfCmd (pfCmd : Word)
  deriving DecidableEq, Repr

/-- `ce_op`, bits 9:8 of a CE request (R52). -/
def ceOp (ceReq : BitVec 10) : BitVec 2 := ceReq.extractLsb' 8 2

/-- `ce_data`, bits 7:0 of a CE request (R52). -/
def ceData (ceReq : BitVec 10) : Byte := ceReq.extractLsb' 0 8

/-- A CE request's operation (R52). `ce_data` is ignored by `CS.INIT` and `CS.FINISH`. -/
def decodeCe (ceReq : BitVec 10) : Except DecodeError Instr :=
  match (ceOp ceReq).toNat with
  | 0 => .ok .csInit
  | 1 => .ok (.csByte (ceData ceReq))
  | 2 => .ok .csFinish
  | _ => .error .reservedCeOp

/-- A PFE request's operation (R53): all 32 bits of `pf_cmd` are compared, and the payload operand is sampled by
`PF.DATA` alone (R56). -/
def decodePfe (pfCmd : Word) (payload : List Byte) : Except DecodeError Instr :=
  if pfCmd = Config.constants.cmdStart then .ok .pfStart
  else if pfCmd = Config.constants.cmdData then .ok (.pfData payload)
  else if pfCmd = Config.constants.cmdReset then .ok .pfReset
  else .error (.reservedPfCmd pfCmd)

/-- The operation a request selects (R52, R53), or why it is reserved (R54, R55). -/
def decode : Request → Except DecodeError Instr
  | .ce ceReq => decodeCe ceReq
  | .pfe pfCmd payload => decodePfe pfCmd payload

/-- A CE request from its two fields (R52). -/
def ceRequest (op : BitVec 2) (data : Byte) : Request := .ce (op ++ data)

/-- The request that selects an operation (R52, R53). Where the spec ignores a field (`ce_data` of `CS.INIT` and
`CS.FINISH`, the payload operand of `PF.START` and `PF.RESET`) it is zero or empty (DESIGN CHOICE, log 19). -/
def encode : Instr → Request
  | .csInit => ceRequest 0 0
  | .csByte b => ceRequest 1 b
  | .csFinish => ceRequest 2 0
  | .pfStart => .pfe Config.constants.cmdStart []
  | .pfData payload => .pfe Config.constants.cmdData payload
  | .pfReset => .pfe Config.constants.cmdReset []

/-- A row of spec/opcode_table.json: a request is of the row when its selector word, masked, is `pattern` (R61). -/
structure OpcodeRow where
  /-- The row's mnemonic. -/
  mnemonic : String
  /-- The row's width: 10 for a `ce_req`, 32 for a `pf_cmd`. -/
  width : Nat
  /-- The row's `match`. -/
  pattern : Nat
  /-- The row's `mask`. -/
  mask : Nat
  deriving DecidableEq, Repr

/-- The six rows of spec/opcode_table.json (R61). -/
def opcodeTable : List OpcodeRow :=
  [ ⟨"CS.INIT", 10, 0x000, 0x300⟩,
    ⟨"CS.BYTE", 10, 0x100, 0x300⟩,
    ⟨"CS.FINISH", 10, 0x200, 0x300⟩,
    ⟨"PF.START", 32, 0x00000000, 0xFFFFFFFF⟩,
    ⟨"PF.DATA", 32, 0x00000001, 0xFFFFFFFF⟩,
    ⟨"PF.RESET", 32, 0x00000002, 0xFFFFFFFF⟩ ]

/-- The selector word of a request: `ce_req` or `pf_cmd`. -/
def Request.selector : Request → Nat
  | .ce ceReq => ceReq.toNat
  | .pfe pfCmd _ => pfCmd.toNat

/-- How many bits the selector word has. -/
def Request.selectorWidth : Request → Nat
  | .ce _ => 10
  | .pfe _ _ => 32

/-- Whether a request is of a row of the table (R61). -/
def OpcodeRow.covers (row : OpcodeRow) (r : Request) : Bool :=
  row.width == r.selectorWidth && Nat.land r.selector row.mask == row.pattern

/-- The row of an operation. -/
def Instr.mnemonic : Instr → String
  | .csInit => "CS.INIT"
  | .csByte _ => "CS.BYTE"
  | .csFinish => "CS.FINISH"
  | .pfStart => "PF.START"
  | .pfData _ => "PF.DATA"
  | .pfReset => "PF.RESET"

/-- The bytes of `w` from bit 0 up, `n` of them. -/
def tableBytes : Nat → Nat → List Byte
  | 0, _ => []
  | n + 1, w => BitVec.ofNat 8 w :: tableBytes n (w / 256)

/-- The request a table word stands for (log 7). Up to 16 bits (a 10-bit row in whole bytes) is a CE request, whose value
must fit in 10 bits; 32 bits is a PFE request with an empty payload, and each whole byte above them is one payload byte.
`none` where the bits are no request. -/
def tableRequest (nbits w : Nat) : Option Request :=
  if nbits ≤ 16 then
    if w < 2 ^ 10 then some (.ce (BitVec.ofNat 10 w)) else none
  else if 32 ≤ nbits ∧ nbits % 8 = 0 ∧ w < 2 ^ nbits then
    some (.pfe (BitVec.ofNat 32 w) (tableBytes ((nbits - 32) / 8) (w / 2 ^ 32)))
  else none

/-- The instruction the decoder reads from a word numbered as spec/opcode_table.json numbers it; `none` where it refuses. -/
def decodeTableWord (nbits w : Nat) : Option Instr :=
  match tableRequest nbits w with
  | some r =>
    match decode r with
    | .ok i => some i
    | .error _ => none
  | none => none

end Sys2Proof
end

