-- ==== Sys2Proof/Machine/State.lean ====
section
/-! DEFINITION. The state (spec/10_state.md R15) as plain data, what may be asked of the block and what it answers (R24), and
the state right after reset (R27). The block has no pc, no register file and no addressable memory (R19, R21, R30). -/

namespace Sys2Proof.Machine

/-- The three faults of the block (spec/60_exceptions.md R105). A fault does not stop the machine: raising one is a next
state (R106) and the block goes on answering every request with it (R107). -/
inductive BlockFault where
  /-- Code 1, by `CS.FINISH` when `BCNT` is not 0 (R108). -/
  | invalidLength
  /-- Code 2, by `PF.DATA` when the payload has more than 64 bytes (R109). -/
  | payloadTooLarge
  /-- Code 3, by any request whose selector is reserved (R110). -/
  | invalidCommand
  deriving DecidableEq, Repr

/-- A response on the response port (R24). -/
inductive Response where
  /-- `ok` -/
  | ok
  /-- `ok(v)`, from `CS.FINISH` alone. -/
  | okWord (v : Word)
  /-- `fault(F)` -/
  | fault (f : BlockFault)
  deriving DecidableEq, Repr

/-- What the outside world can do to the block, one at a time: a request (R24), or the reset, which comes between two
operations and never inside one (spec/70_reset_and_hazards.md R120). -/
inductive HostEvent where
  /-- A request on the request port. -/
  | request (r : Request)
  /-- The block's one reset. -/
  | reset
  deriving DecidableEq, Repr

/-- The five pieces of state of R15, and three fields of the model's own that stand for the two ports and the observer
(logs 2, 3, 4). -/
structure State where
  /-- `ACC`, the running sum (R16). -/
  acc : Word
  /-- `LANE[0..3]`, the bytes of the word being assembled (R17). -/
  lane : Vector Byte 4
  /-- `BCNT`, how many bytes of the current word have arrived (R18). -/
  bcnt : BitVec 2
  /-- `FAULT`: `none` is the spec's own value `None` (R20); its 2-bit codes are `faultCode` (R105; log 8). -/
  fault : Option BlockFault
  /-- `TX`, every byte emitted since reset, oldest first (R23). -/
  tx : List Byte
  /-- The model's: what the host will do, next first. DESIGN CHOICE (log 2). -/
  requests : List HostEvent
  /-- The model's: every response given so far, oldest first (R13). DESIGN CHOICE (log 3). -/
  responses : List Response
  /-- The model's: how many resets the block has had, which selects the free bytes the next one leaves in `LANE`.
  DESIGN CHOICE (log 4). -/
  resets : Nat
  deriving DecidableEq, Repr

/-- Why the machine stops. The block's own faults are not here: the spec lets the block go on after them (R106, R107). -/
inductive Fault where
  /-- Raised by `step` when no request is pending: the host issues nothing more and the run ends (R133). Safe (log 5). -/
  | noRequest
  deriving DecidableEq, Repr

/-- Why the model gives an instruction no meaning. -/
inductive Refusal where
  /-- Raised by an arm of `exec` that has no meaning yet; no arm raises it. Safe. -/
  | notModelled (mnemonic : String)
  deriving DecidableEq, Repr

/-- The machine right after its first reset (R27, R120). `LANE` holds the free bytes of reset 0 (log 4); nothing has been
asked, and nothing answered (logs 2, 3). -/
def State.reset : State where
  acc := Config.constants.seed
  lane := Config.laneAfterReset 0
  bcnt := 0
  fault := none
  tx := []
  requests := []
  responses := []
  resets := 1

end Sys2Proof.Machine
end

