-- ==== Sys2Proof/Machine/Flags.lean ====
section
/-! DEFINITION. `FAULT`, the block's only flag (spec/10_state.md R20): its 2-bit codes and the conditions that raise each fault
(spec/60_exceptions.md R105). -/

namespace Sys2Proof.Machine

/-- The code of a value of `FAULT` (R105). -/
def faultCode : Option BlockFault → BitVec 2
  | none => 0
  | some .invalidLength => 1
  | some .payloadTooLarge => 2
  | some .invalidCommand => 3

/-- The value of `FAULT` a code stands for: all four codes are used (R105). -/
def faultOfCode (c : BitVec 2) : Option BlockFault :=
  match c.toNat with
  | 0 => none
  | 1 => some .invalidLength
  | 2 => some .payloadTooLarge
  | _ => some .invalidCommand

/-- The condition of `InvalidLength`: the input so far is no whole number of words, `BCNT != 0` (R66, R108). -/
def misaligned (s : State) : Bool := s.bcnt != 0

/-- The condition of `PayloadTooLarge`: `len(payload) > 64` (R79, R109). -/
def oversize (payload : List Byte) : Bool := decide (payload.length > Config.constants.payloadSize)

end Sys2Proof.Machine
end

