-- ==== Sys2Proof/Machine/Ops.lean ====
section
/-! DEFINITION. The named operations of the pseudocode (spec/00_scope.md R12): the two byte orders of a word, `Emit`,
`respond`, `raise F`, the check every operation begins with, the CE's register writes, and the reset of the block. -/

namespace Sys2Proof.Machine

/-- `LE32(w)`: the bytes of a word, least significant first (R12, R32). -/
def bytesOfWord (w : Word) : List Byte :=
  [w.extractLsb' 0 8, w.extractLsb' 8 8, w.extractLsb' 16 8, w.extractLsb' 24 8]

/-- `le32(b0, b1, b2, b3)`: the word `b0 + 2^8*b1 + 2^16*b2 + 2^24*b3` (R12, R32). -/
def wordOfBytes (b0 b1 b2 b3 : Byte) : Word := b3 ++ b2 ++ b1 ++ b0

/-- `Emit(s)`: append bytes to `TX` (R12, R23). -/
def emit (bs : List Byte) (s : State) : State := { s with tx := s.tx ++ bs }

/-- `respond r`: give the operation's one response (R12, R24). -/
def respond (r : Response) (s : State) : State := { s with responses := s.responses ++ [r] }

/-- `raise F`, the one way into the faulted state (R106): `FAULT <- F`, no other register changes, nothing is emitted, and
the response is `fault(F)`. -/
def raise (f : BlockFault) (s : State) : State := respond (.fault f) { s with fault := some f }

/-- The check that comes before everything else in every operation (R107, R111): a faulted block changes nothing and
responds with the standing fault; a block that is not faulted goes on to `body`. -/
def whenClear (s body : State) : State :=
  match s.fault with
  | some f => respond (.fault f) s
  | none => body

/-- Replace what the host will still do (log 2). -/
def setRequests (rest : List HostEvent) (s : State) : State := { s with requests := rest }

/-- `ACC <- SEED; BCNT <- 0` (R64). `LANE` is left as it is. -/
def startSum (s : State) : State := { s with acc := Config.constants.seed, bcnt := 0 }

/-- `LANE[BCNT] <- b` (R65). -/
def latchByte (b : Byte) (s : State) : State := { s with lane := s.lane.set s.bcnt.toNat b s.bcnt.isLt }

/-- The word in the four lanes, `le32(LANE[0], LANE[1], LANE[2], LANE[3])` (R65). -/
def laneWord (s : State) : Word := wordOfBytes s.lane[0] s.lane[1] s.lane[2] s.lane[3]

/-- Absorb one byte (R65): latch it, and on the fourth byte add the word and go back to lane 0, else count. -/
def absorb (b : Byte) (s : State) : State :=
  let t := latchByte b s
  if s.bcnt = 3 then { t with acc := t.acc + laneWord t, bcnt := 0 }
  else { t with bcnt := t.bcnt + 1 }

/-- The block's reset (spec/70_reset_and_hazards.md R120): `ACC <- SEED`, `BCNT <- 0`, `FAULT <- None`, `TX <- []`, and `LANE`
unspecified, a fresh free value each time (log 4). What the host still has to ask, and what it has already been answered,
are the host's and stay (log 14). It gives no response. -/
def resetBlock (s : State) : State :=
  { s with
    acc := Config.constants.seed
    lane := Config.laneAfterReset s.resets
    bcnt := 0
    fault := none
    tx := []
    resets := s.resets + 1 }

end Sys2Proof.Machine
end

