-- ==== Sys2Proof/Machine/ChecksumEngine.lean ====
section
/-! DEFINITION. The meanings of the checksum engine's three operations (spec/40_checksum_engine.md R64 to R66). -/

namespace Sys2Proof.Machine

/-- `CS.INIT` (R64). -/
def execCsInit (s : State) : Host.Outcome State Fault Refusal :=
  .next (whenClear s (respond .ok (startSum s)))

/-- `CS.BYTE b` (R65). -/
def execCsByte (b : Byte) (s : State) : Host.Outcome State Fault Refusal :=
  .next (whenClear s (respond .ok (absorb b s)))

/-- `CS.FINISH` (R66). -/
def execCsFinish (s : State) : Host.Outcome State Fault Refusal :=
  .next (whenClear s (if misaligned s then raise .invalidLength s else respond (.okWord s.acc) s))

end Sys2Proof.Machine
end

