-- ==== Sys2Proof/Machine/Operands.lean ====
section
/-! DEFINITION. Operand assembly and the functions of byte sequences alone: the checksum (spec/40_checksum_engine.md R67), the
padded payload (spec/30_encoding.md R50) and the three frames (R46, R47). -/

namespace Sys2Proof.Machine

/-- Add each complete 4-byte little-endian word of a byte sequence to `acc`, in order, modulo 2^32 (R67, R69). One to three
bytes left at the end are no word and are not added (R65). -/
def sumWords (acc : Word) : List Byte → Word
  | b0 :: b1 :: b2 :: b3 :: rest => sumWords (acc + wordOfBytes b0 b1 b2 b3) rest
  | _ => acc

/-- `CHECKSUM(s)`, the source's `checksum(bytes) -> u32` (R67): a function of the bytes and of `SEED` alone, which raises
`InvalidLength` where the length is no multiple of 4. -/
def checksum (s : List Byte) : Except BlockFault Word :=
  if s.length % Config.constants.wordBytes ≠ 0 then .error .invalidLength
  else .ok (sumWords Config.constants.seed s)

/-- The padded payload `P = p ++ rep(0xFF, 64 - n)` (R50). -/
def padPayload (payload : List Byte) : List Byte :=
  payload ++ List.replicate (Config.constants.payloadSize - payload.length) Config.constants.padByte

/-- Format `CTRL`: the command field and nothing else (R46). -/
def ctrlFrame (cmd : Word) : List Byte := bytesOfWord cmd

/-- The checksum field's word: the sum over the padded payload's sixteen words, in a datapath of its own (R51, R79, R82). -/
def payloadChecksum (payload : List Byte) : Word := sumWords Config.constants.seed (padPayload payload)

/-- Format `DATA72`: command, checksum, padded payload, in that order (R47). -/
def dataFrame (payload : List Byte) : List Byte :=
  bytesOfWord Config.constants.cmdData ++ bytesOfWord (payloadChecksum payload) ++ padPayload payload

/-- `frame(op)` of R77: the bytes an operation emits when it succeeds; the CE operations emit none. -/
def frame : Instr → List Byte
  | .csInit => []
  | .csByte _ => []
  | .csFinish => []
  | .pfStart => ctrlFrame Config.constants.cmdStart
  | .pfData payload => dataFrame payload
  | .pfReset => ctrlFrame Config.constants.cmdReset

end Sys2Proof.Machine
end

