-- ==== Sys2Proof/Machine/FrameEncoder.lean ====
section
/-! DEFINITION. The meanings of the packet frame encoder's three operations (spec/41_packet_frame_encoder.md R78 to R80). None
reads or writes `ACC`, `LANE` or `BCNT` (R82). -/

namespace Sys2Proof.Machine

/-- `PF.START` (R78). -/
def execPfStart (s : State) : Host.Outcome State Fault Refusal :=
  .next (whenClear s (respond .ok (emit (ctrlFrame Config.constants.cmdStart) s)))

/-- `PF.DATA p` (R79): the length is checked before any byte is emitted (R81). -/
def execPfData (payload : List Byte) (s : State) : Host.Outcome State Fault Refusal :=
  .next (whenClear s
    (if oversize payload then raise .payloadTooLarge s else respond .ok (emit (dataFrame payload) s)))

/-- `PF.RESET` (R80): a command to the receiver; it does not reset the block (R84). -/
def execPfReset (s : State) : Host.Outcome State Fault Refusal :=
  .next (whenClear s (respond .ok (emit (ctrlFrame Config.constants.cmdReset) s)))

end Sys2Proof.Machine
end

