-- ==== Sys2Proof/Machine/Dispatch.lean ====
section
/-! DEFINITION. Which meaning each operation has. -/

namespace Sys2Proof.Machine

def exec (i : Instr) (s : State) : Host.Outcome State Fault Refusal :=
  match i with
  | .csInit => Sys2Proof.Machine.execCsInit s
  | .csByte b => Sys2Proof.Machine.execCsByte b s
  | .csFinish => Sys2Proof.Machine.execCsFinish s
  | .pfStart => Sys2Proof.Machine.execPfStart s
  | .pfData payload => Sys2Proof.Machine.execPfData payload s
  | .pfReset => Sys2Proof.Machine.execPfReset s

end Sys2Proof.Machine
end

