-- ==== Sys2Proof/Machine/RequestPort.lean ====
section
/-! DEFINITION. Serving the request port (spec/10_state.md R24): a request selects an operation or is reserved, and the reset
comes between operations; and issuing operations one after another, as a host does. -/

namespace Sys2Proof.Machine

/-- Serve one request: the operation it selects, or, for a reserved selector, `InvalidCommand` (R54, R55, R110) after the
check for a standing fault (R111). -/
def serve (r : Request) (s : State) : Host.Outcome State Fault Refusal :=
  match decode r with
  | .ok i => exec i s
  | .error _ => .next (whenClear s (raise .invalidCommand s))

/-- One thing the host does to the block (R24, R120). -/
def handle (e : HostEvent) (s : State) : Host.Outcome State Fault Refusal :=
  match e with
  | .request r => serve r s
  | .reset => .next (resetBlock s)

/-- Take the next host event, or stop where there is none: the run has ended (R133; log 5). -/
def takeNext (s : State) : Host.Outcome State Fault Refusal :=
  match s.requests with
  | [] => .fault .noRequest
  | e :: rest => handle e (setRequests rest s)

/-- Put a request first on the request port. -/
def present (r : Request) (s : State) : State := setRequests (.request r :: s.requests) s

/-- Issue an operation to the block (R42). Every operation ends in a next state. -/
def issue (i : Instr) (s : State) : State :=
  match exec i s with
  | .next t => t
  | .fault _ => s
  | .refused _ => s

/-- Issue operations one after another, first one first (R42). -/
def issueAll (ops : List Instr) (s : State) : State := ops.foldl (fun t i => issue i t) s

/-- The last response given, if any. -/
def lastResponse (s : State) : Option Response := s.responses.getLast?

/-- The host's `CHECKSUM(s)` on the block: `CS.INIT`, each byte, `CS.FINISH` (R60, R68). -/
def checksumOps (bytes : List Byte) : List Instr := .csInit :: (bytes.map .csByte ++ [.csFinish])

end Sys2Proof.Machine
end

