-- ==== Sys2Proof/Machine/Step.lean ====
section
/-! DEFINITION. One step of the machine: one thing the host does, taken whole (spec/00_scope.md R13). -/

namespace Sys2Proof.Machine

/-- One step (R13): the next request or reset, whole. -/
def step (s : State) : Host.Outcome State Fault Refusal := takeNext s

/-- `s` with the request that a table word stands for presented next, before any that are already pending (logs 6, 7). A word
that is no request leaves `s` as it is. -/
def State.withFetchWord (s : State) (nbits w : Nat) : State :=
  match tableRequest nbits w with
  | some r => present r s
  | none => s

end Sys2Proof.Machine
end

