-- ==== Sys2Proof/Machine/FrameReader.lean ====
section
/-! DEFINITION. A reader of `TX` (spec/30_encoding.md R49, R62): it cuts the bytes into frames by the command code alone, with
no length field. -/

namespace Sys2Proof.Machine

/-- A frame as a reader sees it. -/
inductive WireFrame where
  /-- Format `CTRL`: a command field and nothing else (R46). -/
  | ctrl (cmd : Word)
  /-- Format `DATA72`: the checksum field's word and the 64 payload bytes (R47). -/
  | data (checksum : Word) (payload : List Byte)
  deriving DecidableEq, Repr

/-- The word in the first four bytes of a sequence, 0 where there are fewer; the reader checks the length first. -/
def leadingWord : List Byte → Word
  | b0 :: b1 :: b2 :: b3 :: _ => wordOfBytes b0 b1 b2 b3
  | _ => 0

/-- Cut at most `fuel` frames (R49): read 4 bytes; if they are the `DATA` code, the next 68 bytes belong to the frame. `none`
where the bytes end inside a frame. -/
def cutFramesFuel : Nat → List Byte → Option (List WireFrame)
  | _, [] => some []
  | 0, _ :: _ => none
  | fuel + 1, bs =>
    if bs.length < Config.constants.ctrlFrameBytes then none
    else if leadingWord bs = Config.constants.cmdData then
      if bs.length < Config.constants.dataFrameBytes then none
      else
        let body := (bs.take Config.constants.dataFrameBytes).drop Config.constants.cmdBytes
        (cutFramesFuel fuel (bs.drop Config.constants.dataFrameBytes)).map
          (WireFrame.data (leadingWord body) (body.drop Config.constants.csBytes) :: ·)
    else
      (cutFramesFuel fuel (bs.drop Config.constants.ctrlFrameBytes)).map (WireFrame.ctrl (leadingWord bs) :: ·)

/-- Cut a byte sequence into frames (R49); one frame has at least one byte. -/
def cutFrames (bs : List Byte) : Option (List WireFrame) := cutFramesFuel bs.length bs

/-- The payload bytes of a frame; a `CTRL` frame has none (R62). -/
def WireFrame.payloadBytes : WireFrame → List Byte
  | .ctrl _ => []
  | .data _ payload => payload

/-- Strip the commands and checksums and join what is left (R62). -/
def extractPayloads (fs : List WireFrame) : List Byte := fs.flatMap WireFrame.payloadBytes

end Sys2Proof.Machine
end

