-- ==== Sys2Proof/Machine/Header.lean ====
section
/-! DEFINITION. The host's firmware header and chunking (spec/42_host_usage.md R87 to R92), and the acknowledgement's decoding
(R96). Nothing here is state of the block (R86). -/

namespace Sys2Proof.Machine

/-- Why the host stops (spec/60_exceptions.md R104, R115). None of these but `blockFault` changes or comes from the block. -/
inductive HostFailure where
  /-- An acknowledgement that decodes to -1 (R99). -/
  | negativeAcknowledgement
  /-- A short or empty read (R101). -/
  | ackTimeout
  /-- A write or read that fails (R101, R104). -/
  | transportFailure
  /-- The header's 16 bytes of fields exceed its size; "cannot happen with this fixed layout" (R91). -/
  | headerOverflow
  /-- An image of 2^32 bytes or more (D26). -/
  | imageTooLarge
  /-- The block answered an operation with a fault (R104; log 13). -/
  | blockFault (f : BlockFault)
  /-- `CS.FINISH` gave neither a word nor a fault, which it never does. -/
  | noChecksum
  deriving DecidableEq, Repr

/-- The source's three classes of error (R104). -/
inductive ErrorClass where
  | preconditionViolation
  | transportFailure
  | negativeAcknowledgement
  deriving DecidableEq, Repr

/-- The class of each failure, where the source gives one (R104, R105; C8 for `AckTimeout`). -/
def HostFailure.errorClass : HostFailure → Option ErrorClass
  | .negativeAcknowledgement => some .negativeAcknowledgement
  | .ackTimeout => some .transportFailure
  | .transportFailure => some .transportFailure
  | .headerOverflow => none
  | .imageTooLarge => none
  | .blockFault .invalidLength => some .preconditionViolation
  | .blockFault .payloadTooLarge => some .preconditionViolation
  | .blockFault .invalidCommand => none
  | .noChecksum => none

/-- The header's layout (R90): `loaded`, `version`, `size`, `checksum`, and 4080 bytes of padding. -/
def headerBytes (size : Nat) (cs : Word) : List Byte :=
  bytesOfWord Config.host.hdrLoaded ++ bytesOfWord Config.host.hdrVersion ++ bytesOfWord (BitVec.ofNat 32 size) ++
    bytesOfWord cs ++
    List.replicate (Config.host.headerSize - Config.host.hdrMetaBytes) Config.constants.padByte

/-- `BUILD_HEADER(image)` as a host runs it on the block (R91): the checksum is computed by `CS.INIT`, one `CS.BYTE` per image
byte and `CS.FINISH`. An image of 2^32 bytes or more is refused before any operation is issued (D26; log 11). -/
def buildHeader (image : List Byte) (s : State) : State × Except HostFailure (List Byte) :=
  if image.length < 2 ^ 32 then
    let t := issueAll (checksumOps image) s
    match lastResponse t with
    | some (.okWord cs) =>
      if Config.host.hdrMetaBytes > Config.host.headerSize then (t, .error .headerOverflow)
      else (t, .ok (headerBytes image.length cs))
    | some (.fault f) => (t, .error (.blockFault f))
    | some .ok => (t, .error .noChecksum)
    | none => (t, .error .noChecksum)
  else (s, .error .imageTooLarge)

/-- At most `fuel` chunks of 64 bytes from the front (R92). -/
def chunksFuel : Nat → List Byte → List (List Byte)
  | 0, _ => []
  | _ + 1, [] => []
  | fuel + 1, b :: bs =>
    (b :: bs).take Config.constants.payloadSize :: chunksFuel fuel ((b :: bs).drop Config.constants.payloadSize)

/-- Split a byte sequence "into consecutive 64-byte chunks", the last of 1 to 64 bytes (R92). -/
def chunks (bs : List Byte) : List (List Byte) := chunksFuel bs.length bs

/-- `signed32(w)`: two's complement (R12, K1; log 18). -/
def signed32 (w : Word) : Int := if w.toNat < 2 ^ 31 then (w.toNat : Int) else (w.toNat : Int) - 2 ^ 32

/-- An acknowledgement's value (R96); `none` where the read gave anything but 4 bytes (R101). -/
def decodeAck : List Byte → Option Int
  | [b0, b1, b2, b3] => some (signed32 (wordOfBytes b0 b1 b2 b3))
  | _ => none

/-- The blob the merge utility writes (R103): the bootloader image padded with `0xFF` to a minimum size, then the application
image (log 21). The utility does not use the block. -/
def firmwareBlob (minSize : Nat) (bootloader application : List Byte) : List Byte :=
  bootloader ++ List.replicate (minSize - bootloader.length) Config.constants.padByte ++ application

end Sys2Proof.Machine
end

