-- ==== Sys2Proof/Machine/Sequencer.lean ====
section
/-! DEFINITION. The host's Transfer Sequencer (spec/42_host_usage.md R93 to R102): a state machine of the host's that drives the
block, one frame and then one acknowledgement read at a time (R98). Its state is its own and no state of the block (R29, R86). -/

namespace Sys2Proof.Machine

/-- The sequencer's states (R95). -/
inductive Phase where
  | idle
  | starting
  | sendingHeader
  | sendingFirmware
  | finishing
  | done
  | aborted
  deriving DecidableEq, Repr

/-- The two open parameters of the host (R100, D19, D20). -/
structure HostParams where
  /-- `CHECK_START_ACK` -/
  checkStartAck : Bool
  /-- `CHECK_RESET_ACK` -/
  checkResetAck : Bool
  deriving DecidableEq, Repr

/-- What the link gives the host for one frame: the bytes that `read(4)` returned, fewer on a timeout, or a failure of the
write or the read (R88, R101). -/
inductive LinkReply where
  | bytes (bs : List Byte)
  | failed
  deriving DecidableEq, Repr

/-- A transfer under way: what the host holds (R87, R95) and the block it drives. -/
structure Session where
  /-- The sequencer's state (R95). -/
  phase : Phase
  /-- The firmware image, "held immutably for the duration of the transfer" (R87). -/
  image : List Byte
  /-- The chunks of the present stage that are still to be sent (R93). -/
  pending : List (List Byte)
  /-- A frame was sent and its acknowledgement has not been read (R98). -/
  awaiting : Bool
  /-- What the link will give for each frame, next first. An empty list is a link that gives nothing (log 12). -/
  link : List LinkReply
  /-- Why the session is in `aborted`, where it is. -/
  failure : Option HostFailure
  /-- The block. -/
  block : State
  deriving DecidableEq, Repr

/-- A transfer that has not begun, of an image, over a link, with a block. -/
def Session.start (image : List Byte) (link : List LinkReply) (block : State) : Session where
  phase := .idle
  image := image
  pending := []
  awaiting := false
  link := link
  failure := none
  block := block

/-- Stop for a reason: nothing more is issued (R99). -/
def Session.abort (why : HostFailure) (ss : Session) : Session := { ss with phase := .aborted, failure := some why }

/-- Stop for a reason, or go on where there is none. -/
def Session.settle (verdict : Option HostFailure) (ss : Session) : Session :=
  match verdict with
  | some why => ss.abort why
  | none => ss

/-- What is wrong with the link's reply to a frame (R97, R99, R101): a failed write or read, fewer than 4 bytes, or, where the
acknowledgement's value is checked (R100), -1. Every other value is acceptance. A short read is a failure whether or not the
value is checked (D21; log 10). -/
def judgeReply (checked : Bool) : LinkReply → Option HostFailure
  | .failed => some .transportFailure
  | .bytes bs =>
    match decodeAck bs with
    | none => some .ackTimeout
    | some v => if checked ∧ v = Config.host.nack then some .negativeAcknowledgement else none

/-- Whether the value of the acknowledgement read in a state is checked: always in the header and firmware stages (R99), and
as the parameters say for the ones after `START` and `RESET` (R100). -/
def HostParams.checks (p : HostParams) : Phase → Bool
  | .idle => true
  | .starting => p.checkStartAck
  | .sendingHeader => true
  | .sendingFirmware => true
  | .finishing => p.checkResetAck
  | .done => true
  | .aborted => true

/-- Issue one `PF` operation, go on to a state, and wait there for the acknowledgement (R98). -/
def Session.send (op : Instr) (next : Phase) (ss : Session) : Session :=
  { ss with phase := next, awaiting := true, block := issue op ss.block }

/-- Read the acknowledgement of the frame that was just sent (R96, R98) and stay in the state, or stop (R99). Where the block
answered the operation with a fault no frame went out and nothing is read (log 13). -/
def Session.collect (p : HostParams) (ss : Session) : Session :=
  match lastResponse ss.block with
  | some (.fault f) => ss.abort (.blockFault f)
  | _ =>
    match ss.link with
    | [] => ss.abort .ackTimeout
    | reply :: rest =>
      ({ ss with link := rest, awaiting := false } : Session).settle (judgeReply (p.checks ss.phase) reply)

/-- Build the header and make its chunks the ones to send (R94 step 2), or stop. -/
def Session.makeHeader (ss : Session) : Session :=
  let (t, h) := buildHeader ss.image ss.block
  let u := { ss with block := t }
  match h with
  | .ok header => { u with phase := .sendingHeader, pending := chunks header }
  | .error why => u.abort why

/-- What the host does in a sending state once nothing is awaited (R94): the next operation or the next stage. `idle` begins
the transfer; `done` and `aborted` are final (R99, R133). -/
def Session.advance (ss : Session) : Session :=
  match ss.phase with
  | .idle => ss.send .pfStart .starting
  | .starting => ss.makeHeader
  | .sendingHeader =>
    match ss.pending with
    | c :: cs => { ss with pending := cs }.send (.pfData c) .sendingHeader
    | [] => { ss with phase := .sendingFirmware, pending := chunks ss.image }
  | .sendingFirmware =>
    match ss.pending with
    | c :: cs => { ss with pending := cs }.send (.pfData c) .sendingFirmware
    | [] => ss.send .pfReset .finishing
  | .finishing => { ss with phase := .done }
  | .done => ss
  | .aborted => ss

/-- The four sending states, those between `Idle` and `Done` (R95, C5). -/
def Phase.sending : Phase → Bool
  | .idle => false
  | .starting => true
  | .sendingHeader => true
  | .sendingFirmware => true
  | .finishing => true
  | .done => false
  | .aborted => false

/-- One step of the sequencer (R94): in a sending state that awaits an acknowledgement, that read, after which it may be
`aborted` (R95, R99); else at most one frame. -/
def Session.step (p : HostParams) (ss : Session) : Session :=
  if ss.phase.sending && ss.awaiting then ss.collect p else ss.advance

/-- `n` steps of the sequencer. -/
def Session.run (p : HostParams) : Nat → Session → Session
  | 0, ss => ss
  | n + 1, ss => Session.run p n (ss.step p)

/-- The `PF` operations of a whole `TRANSFER(image)` whose image checksum is `cs`, in order (R94). -/
def transferFrames (image : List Byte) (cs : Word) : List Instr :=
  .pfStart :: ((chunks (headerBytes image.length cs)).map .pfData ++ (chunks image).map .pfData ++ [.pfReset])

end Sys2Proof.Machine
end

