-- ==== Sys2Proof/WellFormed.lean ====
section
/-! DEFINITION. Which operations have a legal operand (spec/30_encoding.md R53, R57: "used, length 0 to 64 legal"). An
operation with an illegal operand can still be requested: it raises `PayloadTooLarge` (R79). -/

namespace Sys2Proof

/-- Every operand is at a value the spec calls legal. Only the payload of `PF.DATA` can fail to be (R57). -/
def Instr.wellFormed : Instr → Bool
  | .csInit => true
  | .csByte _ => true
  | .csFinish => true
  | .pfStart => true
  | .pfData payload => decide (payload.length ≤ Config.constants.payloadSize)
  | .pfReset => true

end Sys2Proof
end

