-- ==== Sys2Proof/Safety.lean ====
section
/-! DEFINITION. The terms the claims use: a successful run, whole frames in `TX`, the input the checksum engine has taken in,
and what of a state can be told apart from outside. -/

namespace Sys2Proof.Safety

open Sys2Proof.Machine

/-- The state in which a run is successful: "A run is *successful* when `FAULT = None` at its end" (R133). -/
def Successful (s : State) : Prop := s.fault = none

/-- `TX` holds whole, well-formed frames only: it is the concatenation of the frames of `PF` operations with legal operands
(R28, R81). -/
def WholeFrames (tx : List Byte) : Prop :=
  ∃ ops : List Instr, (∀ i ∈ ops, i.wellFormed = true) ∧ tx = ops.flatMap frame

/-- The registers of the checksum engine hold exactly the input `input`, taken in since the last `CS.INIT` or reset (R16, R17,
R18, R28): `ACC` is the sum of its complete words, `BCNT` counts the bytes of the partial word, and the lanes below `BCNT`
hold those bytes. -/
def Holds (s : State) (input : List Byte) : Prop :=
  s.acc = sumWords Config.constants.seed input ∧
  s.bcnt.toNat = input.length % 4 ∧
  ∀ i (h : i < 4), i < s.bcnt.toNat → input[input.length - s.bcnt.toNat + i]? = some s.lane[i]

/-- The value of word `k` of a byte sequence, written out from R32: `s[4k] + 2^8*s[4k+1] + 2^16*s[4k+2] + 2^24*s[4k+3]`. -/
def wordValue (s : List Byte) (k : Nat) : Nat :=
  (s.getD (4 * k) 0).toNat + 2 ^ 8 * (s.getD (4 * k + 1) 0).toNat + 2 ^ 16 * (s.getD (4 * k + 2) 0).toNat +
    2 ^ 24 * (s.getD (4 * k + 3) 0).toNat

/-- The checksum-engine input after an operation on a block that is not faulted: `CS.INIT` starts a new one, `CS.BYTE`
adds a byte, and nothing else changes it (R16). -/
def inputAfter (i : Instr) (input : List Byte) : List Byte :=
  match i with
  | .csInit => []
  | .csByte b => input ++ [b]
  | .csFinish => input
  | .pfStart => input
  | .pfData _ => input
  | .pfReset => input

/-- Two states that differ at most in the bytes of `LANE` that no operation can observe, those at `BCNT` and above (R17). -/
def SameButDeadLanes (s t : State) : Prop :=
  (∀ i (h : i < 4), i < s.bcnt.toNat → s.lane[i] = t.lane[i]) ∧
  t = { s with lane := t.lane }

/-- Two states whose checksum engines may differ in everything, and the rest of which is the same (R82). -/
def SameOutsideCe (s t : State) : Prop :=
  t = { s with acc := t.acc, lane := t.lane, bcnt := t.bcnt }

/-- An operation of the packet frame encoder. -/
def IsPf : Instr → Bool
  | .csInit => false
  | .csByte _ => false
  | .csFinish => false
  | .pfStart => true
  | .pfData _ => true
  | .pfReset => true

/-- What a reader of `TX` cuts out of the frame of an operation (R49, R62): nothing where the operation emits none. -/
def wireFrames : Instr → List WireFrame
  | .csInit => []
  | .csByte _ => []
  | .csFinish => []
  | .pfStart => [.ctrl Config.constants.cmdStart]
  | .pfData payload => [.data (payloadChecksum payload) (padPayload payload)]
  | .pfReset => [.ctrl Config.constants.cmdReset]

/-- An acknowledgement the host accepts: four bytes that are not -1 (R96, R97), which is `FF FF FF FF` in two's complement
(log 18). -/
def Accepted (reply : LinkReply) : Prop :=
  ∃ b0 b1 b2 b3 : Byte, reply = .bytes [b0, b1, b2, b3] ∧ ¬(b0 = 0xFF ∧ b1 = 0xFF ∧ b2 = 0xFF ∧ b3 = 0xFF)

/-- The states the sequencer may go on to, written out from R94 and R95: the next of the list, or `Aborted` from a sending
state. -/
def successors : Phase → List Phase
  | .idle => [.starting]
  | .starting => [.sendingHeader, .aborted]
  | .sendingHeader => [.sendingFirmware, .aborted]
  | .sendingFirmware => [.finishing, .aborted]
  | .finishing => [.done, .aborted]
  | .done => []
  | .aborted => []

/-- The bytes that operations with these responses put into `TX`: the frames of those answered `ok`, in order (R28, R42). -/
def successfulFrames (ops : List Instr) (answers : List Response) : List Byte :=
  (ops.zip answers).flatMap fun a => if a.2 = .ok then frame a.1 else []

end Sys2Proof.Safety
end

