-- ==== Sys2Proof/Certificates/Slice0/Obligations.lean ====
section
/-! DEFINITION. The statements for the provers. Each docstring names the rule of spec/ it formalises. A statement of what an
operation does gives the whole next state as an update of the old one, so that everything it does not name is unchanged. -/

open Sys2Proof Sys2Proof.Machine Sys2Proof.Safety

/-! ### Reset -/

/-- R27. After reset `ACC = SEED`, `BCNT = 0`, `FAULT = None`, `TX = []`; it is the state that `CS.INIT` produces; and
whatever four bytes `LANE` holds, no operations can observe them. -/
def Obligations.ResetLeavesTheStartOfAChecksum : Prop :=
  State.reset.acc = Config.seed ∧ State.reset.bcnt = 0 ∧ State.reset.fault = none ∧ State.reset.tx = [] ∧
    exec .csInit State.reset = .next { State.reset with responses := State.reset.responses ++ [.ok] } ∧
    ∀ (lane : Vector Byte 4) (ops : List Instr),
      (issueAll ops { State.reset with lane := lane }).responses = (issueAll ops State.reset).responses ∧
        (issueAll ops { State.reset with lane := lane }).tx = (issueAll ops State.reset).tx ∧
        (issueAll ops { State.reset with lane := lane }).fault = (issueAll ops State.reset).fault

/-- R120, and the model's choice (logs 2, 4, 14) that what the host has still to ask and has been answered stays: a reset is
taken in any state and leaves the reset values; `LANE` holds a free value. -/
def Obligations.ResetEventRestoresTheResetValues : Prop :=
  ∀ (s : State) (rest : List HostEvent), s.requests = .reset :: rest →
    step s = .next
      { acc := Config.seed, lane := Config.laneAfterReset s.resets, bcnt := 0, fault := none, tx := [],
        requests := rest, responses := s.responses, resets := s.resets + 1 }

/-! ### The checksum engine's operations -/

/-- R64: the requests that select the operation, the standing fault, and its effect. -/
def Obligations.CsInitStartsANewSum : Prop :=
  (∀ d : Byte, decode (.ce (0#2 ++ d)) = .ok .csInit) ∧
  ∀ s : State,
    (∀ f, s.fault = some f → exec .csInit s = .next { s with responses := s.responses ++ [.fault f] }) ∧
      (s.fault = none →
        exec .csInit s = .next { s with acc := Config.seed, bcnt := 0, responses := s.responses ++ [.ok] })

/-- R65: the requests that select the operation, the standing fault, and its effect, with the word's value written out. -/
def Obligations.CsByteAbsorbsOneByte : Prop :=
  (∀ b : Byte, decode (.ce (1#2 ++ b)) = .ok (.csByte b)) ∧
  ∀ (b : Byte) (s : State),
    (∀ f, s.fault = some f → exec (.csByte b) s = .next { s with responses := s.responses ++ [.fault f] }) ∧
      (s.fault = none →
        ∃ t, exec (.csByte b) s = .next t ∧
          t = { s with acc := t.acc, lane := t.lane, bcnt := t.bcnt, responses := s.responses ++ [.ok] } ∧
          (∀ i (h : i < 4), t.lane[i] = if i = s.bcnt.toNat then b else s.lane[i]) ∧
          (s.bcnt.toNat < 3 → t.acc = s.acc ∧ t.bcnt.toNat = s.bcnt.toNat + 1) ∧
          (s.bcnt.toNat = 3 →
            t.acc.toNat =
                (s.acc.toNat + (s.lane[0].toNat + 2 ^ 8 * s.lane[1].toNat + 2 ^ 16 * s.lane[2].toNat +
                  2 ^ 24 * b.toNat)) % 2 ^ 32 ∧
              t.bcnt.toNat = 0))

/-- R66: the requests that select the operation, the three cases, and that the fault comes exactly when the number of
bytes taken in is no multiple of 4, else the answer is the checksum of those bytes. -/
def Obligations.CsFinishDeliversTheSum : Prop :=
  (∀ d : Byte, decode (.ce (2#2 ++ d)) = .ok .csFinish) ∧
  ∀ s : State,
    (∀ f, s.fault = some f → exec .csFinish s = .next { s with responses := s.responses ++ [.fault f] }) ∧
      (s.fault = none → s.bcnt.toNat ≠ 0 →
        exec .csFinish s =
          .next { s with fault := some .invalidLength, responses := s.responses ++ [.fault .invalidLength] }) ∧
      (s.fault = none → s.bcnt.toNat = 0 →
        exec .csFinish s = .next { s with responses := s.responses ++ [.okWord s.acc] }) ∧
      ∀ input, Holds s input → s.fault = none →
        (input.length % 4 ≠ 0 →
          exec .csFinish s =
            .next { s with fault := some .invalidLength, responses := s.responses ++ [.fault .invalidLength] }) ∧
        (input.length % 4 = 0 →
          ∃ v, checksum input = .ok v ∧ exec .csFinish s = .next { s with responses := s.responses ++ [.okWord v] })

/-- R16, R17, R18, and the last clause of R28, which the spec marks as derived: on a block that is not faulted every
operation keeps the checksum engine's registers holding exactly the input taken in since the last `CS.INIT`. -/
def Obligations.CeRegistersHoldTheInputTakenIn : Prop :=
  Holds State.reset [] ∧
    ∀ (i : Instr) (s : State) (input : List Byte), s.fault = none → Holds s input →
      ∃ t, exec i s = .next t ∧ Holds t (inputAfter i input)

/-- R68, which the spec marks as derived from R64 to R67: the stepwise form agrees with the function, from any state that
is not faulted, and directly after reset without the leading `CS.INIT`. -/
def Obligations.StepwiseChecksumAgreesWithTheFunction : Prop :=
  (∀ (s : State) (input : List Byte), s.fault = none →
    ∃ t, issueAll (checksumOps input) s = t ∧ t.tx = s.tx ∧
      (input.length % 4 = 0 →
        ∃ v, checksum input = .ok v ∧ t.acc = v ∧ t.bcnt = 0 ∧ t.fault = none ∧
          t.responses = s.responses ++ List.replicate (input.length + 1) .ok ++ [.okWord v]) ∧
      (input.length % 4 ≠ 0 →
        checksum input = .error .invalidLength ∧ t.fault = some .invalidLength ∧
          t.responses = s.responses ++ List.replicate (input.length + 1) .ok ++ [.fault .invalidLength])) ∧
    ∀ input : List Byte,
      lastResponse (issueAll (input.map .csByte ++ [.csFinish]) State.reset) =
        lastResponse (issueAll (checksumOps input) State.reset)

/-- R74: four `CS.BYTE` operations at a word boundary add one word, as a word-wide implementation would. -/
def Obligations.FourBytesAtAWordBoundaryAddOneWord : Prop :=
  ∀ (s : State) (b0 b1 b2 b3 : Byte), s.fault = none → s.bcnt = 0 →
    issueAll [.csByte b0, .csByte b1, .csByte b2, .csByte b3] s =
      { s with
        acc := s.acc + wordOfBytes b0 b1 b2 b3
        lane := #v[b0, b1, b2, b3]
        responses := s.responses ++ [.ok, .ok, .ok, .ok] }

/-! ### The function CHECKSUM -/

/-- R67, in closed form. -/
def Obligations.ChecksumIsTheModularSumOfTheWords : Prop :=
  ∀ s : List Byte,
    (s.length % 4 ≠ 0 → checksum s = .error .invalidLength) ∧
      ∀ m, s.length = 4 * m →
        ∃ v, checksum s = .ok v ∧
          v.toNat = (Config.seed.toNat + ∑ k ∈ Finset.range m, wordValue s k) % 2 ^ 32

/-- R72 (a), (c), (d), which the spec marks as derived from R67: concatenation, a zero word, words of all ones. -/
def Obligations.ChecksumOfConcatenationAndOfConstantWords : Prop :=
  ∀ (s t : List Byte) (v w : Word), checksum s = .ok v → checksum t = .ok w →
    checksum (s ++ t) = .ok (v + w - Config.seed) ∧
      checksum (s ++ [0x00, 0x00, 0x00, 0x00]) = .ok v ∧
      checksum (s ++ [0xFF, 0xFF, 0xFF, 0xFF]) = .ok (v - 1) ∧
      ∀ m : Nat, checksum (List.replicate (4 * m) 0xFF) = .ok (Config.seed - BitVec.ofNat 32 m)

/-- R72 (b), which the spec marks as derived from R67: word order does not matter. -/
def Obligations.ChecksumIgnoresTheOrderOfWords : Prop :=
  ∀ ws ws' : List Word, ws.Perm ws' → checksum (ws.flatMap bytesOfWord) = checksum (ws'.flatMap bytesOfWord)

/-- R72 (e), which the spec marks as derived from R67: changing one byte changes the checksum by `(y - x) * 2^(8j)`, and
so is always detected. -/
def Obligations.ChecksumDetectsEverySingleByteChange : Prop :=
  ∀ (s : List Byte) (v : Word) (n : Nat) (h : n < s.length) (y : Byte), checksum s = .ok v →
    ∃ w, checksum (s.set n y) = .ok w ∧
      w = v + (y.setWidth 32 - (s[n]).setWidth 32) * BitVec.ofNat 32 (2 ^ (8 * (n % 4))) ∧
      (y ≠ s[n] → w ≠ v)

/-! ### The packet frame encoder's operations -/

/-- R78: the requests that select the operation, the standing fault, and its effect. -/
def Obligations.PfStartEmitsFourZeroBytes : Prop :=
  (∀ p : List Byte, decode (.pfe 0x00000000 p) = .ok .pfStart) ∧
  ∀ s : State,
    (∀ f, s.fault = some f → exec .pfStart s = .next { s with responses := s.responses ++ [.fault f] }) ∧
      (s.fault = none →
        exec .pfStart s =
          .next { s with tx := s.tx ++ [0x00, 0x00, 0x00, 0x00], responses := s.responses ++ [.ok] })

/-- R80: the requests that select the operation, the standing fault, and its effect; it does not reset the block, faulted
or not. -/
def Obligations.PfResetEmitsItsCommandAndResetsNothing : Prop :=
  (∀ p : List Byte, decode (.pfe 0x00000002 p) = .ok .pfReset) ∧
  ∀ s : State,
    (∀ f, s.fault = some f → exec .pfReset s = .next { s with responses := s.responses ++ [.fault f] }) ∧
      (s.fault = none →
        exec .pfReset s =
          .next { s with tx := s.tx ++ [0x02, 0x00, 0x00, 0x00], responses := s.responses ++ [.ok] })

/-- R79: the requests that select the operation, its fault, and its effect, with the padded payload, the sum of its
sixteen words and the bytes of the checksum field written out. -/
def Obligations.PfDataEmitsItsFrameOrFaults : Prop :=
  (∀ p : List Byte, decode (.pfe 0x00000001 p) = .ok (.pfData p)) ∧
  ∀ (p : List Byte) (s : State),
    (∀ f, s.fault = some f → exec (.pfData p) s = .next { s with responses := s.responses ++ [.fault f] }) ∧
      (s.fault = none → 64 < p.length →
        exec (.pfData p) s =
          .next { s with fault := some .payloadTooLarge, responses := s.responses ++ [.fault .payloadTooLarge] }) ∧
      (s.fault = none → p.length ≤ 64 →
        ∃ cs : Nat,
          cs = (Config.seed.toNat +
            ∑ k ∈ Finset.range 16, wordValue (p ++ List.replicate (64 - p.length) 0xFF) k) % 2 ^ 32 ∧
          exec (.pfData p) s =
            .next { s with
              tx := s.tx ++ ([0x01, 0x00, 0x00, 0x00] ++
                [BitVec.ofNat 8 cs, BitVec.ofNat 8 (cs / 2 ^ 8), BitVec.ofNat 8 (cs / 2 ^ 16),
                  BitVec.ofNat 8 (cs / 2 ^ 24)] ++
                (p ++ List.replicate (64 - p.length) 0xFF))
              responses := s.responses ++ [.ok] })

/-- R82: a `PF` operation neither reads nor writes `ACC`, `LANE`, `BCNT`, so two blocks that differ in them alone still
differ in them alone, and have emitted and answered the same. -/
def Obligations.PacketOperationsAndChecksumEngineDoNotInteract : Prop :=
  ∀ (i : Instr) (s s' : State), IsPf i = true → SameOutsideCe s s' →
    ∃ t t', exec i s = .next t ∧ exec i s' = .next t' ∧ SameOutsideCe t t' ∧
      t.acc = s.acc ∧ t.lane = s.lane ∧ t.bcnt = s.bcnt ∧ t'.acc = s'.acc ∧ t'.lane = s'.lane ∧ t'.bcnt = s'.bcnt

/-- R39, which the spec marks as derived from R64 to R66 and R78 to R80. -/
def Obligations.WhichOperationsMayBeRepeated : Prop :=
  ∀ s : State, s.fault = none →
    (∃ t, exec .csInit s = .next t ∧ exec .csInit t = .next { t with responses := t.responses ++ [.ok] }) ∧
      (s.bcnt = 0 → ∃ t, exec .csFinish s = .next t ∧ t = { s with responses := s.responses ++ [.okWord s.acc] } ∧
        exec .csFinish t = .next { t with responses := t.responses ++ [.okWord s.acc] }) ∧
      (∀ b, ∃ t, exec (.csByte b) s = .next t ∧ t.bcnt ≠ s.bcnt) ∧
      ∀ i, IsPf i = true → i.wellFormed = true →
        ∃ t, exec i s = .next t ∧ t.fault = none ∧ t.tx = s.tx ++ frame i ∧ s.tx.length < t.tx.length

/-! ### Which operation writes what -/

/-- The "written by" column of R15's table, over all operations: each ends in a next state, and changes a register only if
it is named there. -/
def Obligations.OnlyTheNamedOperationsWriteEachRegister : Prop :=
  ∀ (i : Instr) (s : State),
    ∃ t, exec i s = .next t ∧
      (t.acc ≠ s.acc → i = .csInit ∨ ∃ b, i = .csByte b ∧ s.bcnt.toNat = 3) ∧
      (t.lane ≠ s.lane → ∃ b, i = .csByte b) ∧
      (t.bcnt ≠ s.bcnt → i = .csInit ∨ ∃ b, i = .csByte b) ∧
      (t.fault ≠ s.fault → i = .csFinish ∨ ∃ p, i = .pfData p ∧ 64 < p.length) ∧
      (t.tx ≠ s.tx → IsPf i = true ∧ i.wellFormed = true ∧ t.tx = s.tx ++ frame i) ∧
      t.requests = s.requests ∧ t.resets = s.resets

/-! ### Faults -/

/-- R105, the cause of each fault: on a block that is not faulted a request leaves a fault standing exactly under the
fault's own condition. -/
def Obligations.EachFaultHasExactlyItsCause : Prop :=
  ∀ (s : State) (r : Request) (rest : List HostEvent), s.fault = none → s.requests = .request r :: rest →
    ∃ t, step s = .next t ∧
      (t.fault = some .invalidLength ↔ (∃ d : Byte, r = .ce (2#2 ++ d)) ∧ s.bcnt.toNat ≠ 0) ∧
      (t.fault = some .payloadTooLarge ↔ ∃ p, r = .pfe 0x00000001 p ∧ 64 < p.length) ∧
      (t.fault = some .invalidCommand ↔
        (∃ d : Byte, r = .ce (3#2 ++ d)) ∨
          ∃ c p, r = .pfe c p ∧ c ≠ 0x00000000 ∧ c ≠ 0x00000001 ∧ c ≠ 0x00000002)

/-- R106: raising a fault latches it and gives it as the response, and changes nothing else. -/
def Obligations.RaisingAFaultChangesNothingElse : Prop :=
  ∀ (s t : State) (r : Request) (rest : List HostEvent) (f : BlockFault),
    s.fault = none → s.requests = .request r :: rest → step s = .next t → t.fault = some f →
      t = { s with requests := rest, fault := some f, responses := s.responses ++ [.fault f] }

/-- R107: a faulted block refuses every request with the standing fault. -/
def Obligations.AFaultedBlockRefusesEveryRequest : Prop :=
  ∀ (s : State) (f : BlockFault) (r : Request) (rest : List HostEvent),
    s.fault = some f → s.requests = .request r :: rest →
      step s = .next { s with requests := rest, responses := s.responses ++ [.fault f] }

/-- R107 and R116 over a whole list of operations: after a fault the block emits nothing more. -/
def Obligations.NothingFollowsAFault : Prop :=
  ∀ (ops : List Instr) (s : State) (f : BlockFault), s.fault = some f →
    issueAll ops s = { s with responses := s.responses ++ List.replicate ops.length (.fault f) }

/-- R54, R55, R110: a reserved selector raises `InvalidCommand`. -/
def Obligations.AReservedSelectorRaisesInvalidCommand : Prop :=
  ∀ (s : State) (rest : List HostEvent), s.fault = none →
    (∀ d : Byte, s.requests = .request (.ce (3#2 ++ d)) :: rest →
      step s = .next
        { s with
          requests := rest
          fault := some .invalidCommand
          responses := s.responses ++ [.fault .invalidCommand] }) ∧
    ∀ (c : Word) (p : List Byte), c ≠ 0x00000000 → c ≠ 0x00000001 → c ≠ 0x00000002 →
      s.requests = .request (.pfe c p) :: rest →
      step s = .next
        { s with
          requests := rest
          fault := some .invalidCommand
          responses := s.responses ++ [.fault .invalidCommand] }

/-- R112, R120: the only way out of the faulted state is the reset of the block. -/
def Obligations.OnlyResetClearsAFault : Prop :=
  ∀ (s t : State) (f : BlockFault), s.fault = some f → step s = .next t →
    (t.fault = some f ∧ ∃ r rest, s.requests = .request r :: rest) ∨
      (t.fault = none ∧ ∃ rest, s.requests = .reset :: rest)

/-! ### The request port and the step -/

/-- R24: every request gets exactly one response, a word from `CS.FINISH` alone. -/
def Obligations.EveryRequestGetsExactlyOneResponse : Prop :=
  ∀ (s : State) (r : Request) (rest : List HostEvent), s.requests = .request r :: rest →
    ∃ t a, step s = .next t ∧ t.responses = s.responses ++ [a] ∧ t.requests = rest ∧
      ∀ v, a = .okWord v → decode r = .ok .csFinish

/-- The model's choice (log 5) for the end of a run (R133): the machine stops when nothing is asked, and only then. -/
def Obligations.TheMachineStopsOnlyWhenNothingIsAsked : Prop :=
  ∀ s : State, (step s = .fault .noRequest ↔ s.requests = []) ∧ ((∃ t, step s = .next t) ↔ s.requests ≠ [])

/-- A step runs the operation the next request decodes to, on the state without that request. -/
def Obligations.StepRunsTheDecodedOperation : Prop :=
  ∀ (s : State) (r : Request) (rest : List HostEvent) (i : Instr),
    s.requests = .request r :: rest → decode r = .ok i → step s = exec i { s with requests := rest }

/-- A table word presented next (logs 6, 7) is what the very next step runs. -/
def Obligations.APresentedTableWordIsRunNext : Prop :=
  ∀ (s : State) (nbits w : Nat) (i : Instr), decodeTableWord nbits w = some i →
    step (s.withFetchWord nbits w) = exec i s

/-- R42, R13: pending requests run one after another in the order they are issued. -/
def Obligations.PendingRequestsRunInOrder : Prop :=
  ∀ (ops : List Instr) (s : State) (rest : List HostEvent),
    s.requests = ops.map (fun i => .request (encode i)) ++ rest →
      Host.Core.run Sys2Proof.core ops.length s = .next (issueAll ops { s with requests := rest })

/-- R17 (its part marked as derived): the bytes of `LANE` at `BCNT` and above can be observed by no step: two states that
differ in them alone go on to two states that differ in such bytes alone, or both stop. That both stop where nothing is
pending is the model's choice (log 5). -/
def Obligations.StaleLanesAreNeverObserved : Prop :=
  ∀ s t : State, SameButDeadLanes s t →
    (s.requests = [] ∧ step s = .fault .noRequest ∧ step t = .fault .noRequest) ∨
      ∃ s' t', step s = .next s' ∧ step t = .next t' ∧ SameButDeadLanes s' t'

/-! ### Encodings -/

/-- R52, R53, R56: encoding an operation and decoding it gives it back, whatever its operands; and a request selects an
operation exactly when its bits are the operation's in the spec's tables, the ignored ones free. -/
def Obligations.DecodeAndEncodeAgree : Prop :=
  (∀ i : Instr, decode (encode i) = .ok i) ∧
    ∀ r : Request,
      (decode r = .ok .csInit ↔ ∃ d : Byte, r = .ce (0#2 ++ d)) ∧
      (∀ b : Byte, decode r = .ok (.csByte b) ↔ r = .ce (1#2 ++ b)) ∧
      (decode r = .ok .csFinish ↔ ∃ d : Byte, r = .ce (2#2 ++ d)) ∧
      (decode r = .ok .pfStart ↔ ∃ p, r = .pfe 0x00000000 p) ∧
      (∀ p, decode r = .ok (.pfData p) ↔ r = .pfe 0x00000001 p) ∧
      (decode r = .ok .pfReset ↔ ∃ p, r = .pfe 0x00000002 p) ∧
      (decode r = .error .reservedCeOp ↔ ∃ d : Byte, r = .ce (3#2 ++ d)) ∧
      ∀ c, decode r = .error (.reservedPfCmd c) ↔
        (∃ p, r = .pfe c p) ∧ c ≠ 0x00000000 ∧ c ≠ 0x00000001 ∧ c ≠ 0x00000002

/-- A few words written out from R52, R53 and program P1 to P4 of 95_test_vectors.md. -/
def Obligations.WrittenOutWordsDecode : Prop :=
  decode (.ce 0b0000000000#10) = .ok .csInit ∧ decode (.ce 0b0100000001#10) = .ok (.csByte 0x01) ∧
    decode (.ce 0b1000000000#10) = .ok .csFinish ∧ decode (.ce 0b1011111111#10) = .ok .csFinish ∧
    decode (.ce 0b1100000000#10) = .error .reservedCeOp ∧ decode (.pfe 0x00000000 [0xAA]) = .ok .pfStart ∧
    decode (.pfe 0x00000001 [0x01, 0x02, 0x03]) = .ok (.pfData [0x01, 0x02, 0x03]) ∧
    decode (.pfe 0x00000002 []) = .ok .pfReset ∧
    decode (.pfe 0x02000000 []) = .error (.reservedPfCmd 0x02000000)

/-- R61, which the spec marks as derived: every operation's request is of the operation's row of spec/opcode_table.json,
and of no other. -/
def Obligations.EveryRequestIsOfExactlyItsRow : Prop :=
  ∀ (r : Request) (i : Instr), decode r = .ok i →
    ∀ row ∈ opcodeTable, (row.covers r = true ↔ row.mnemonic = i.mnemonic)

/-! ### The output stream -/

/-- R81, and R28, which the spec marks as derived: every step keeps `TX` a concatenation of whole, well-formed frames. -/
def Obligations.EveryStepKeepsWholeFrames : Prop :=
  ∀ s t : State, WholeFrames s.tx → step s = .next t → WholeFrames t.tx

/-- The invariant of `EveryStepKeepsWholeFrames` at reset, where `TX` is empty (R27). -/
def Obligations.TxHoldsWholeFramesAtReset : Prop := WholeFrames State.reset.tx

/-- R42, and R28, which the spec marks as derived: whatever operations are issued, each is answered once, `TX` grows by
the frames of those answered `ok`, in order, and so by 4 bytes for each `START` or `RESET` and 72 for each `DATA`. -/
def Obligations.TxIsTheFramesOfTheSuccessfulOperations : Prop :=
  ∀ (ops : List Instr) (s : State),
    ∃ answers : List Response,
      answers.length = ops.length ∧
      (issueAll ops s).responses = s.responses ++ answers ∧
      (issueAll ops s).tx = s.tx ++ successfulFrames ops answers ∧
      (successfulFrames ops answers).length =
        4 * (ops.zip answers).countP (fun a => (a.1 = .pfStart ∨ a.1 = .pfReset) ∧ a.2 = .ok) +
          72 * (ops.zip answers).countP (fun a => IsPf a.1 = true ∧ a.1 ≠ .pfStart ∧ a.1 ≠ .pfReset ∧ a.2 = .ok)

/-- R49, which the spec marks as derived from R45 to R48: a reader cuts `TX` into its frames by the command codes alone. -/
def Obligations.AReaderCutsTxIntoItsFrames : Prop :=
  ∀ ops : List Instr, (∀ i ∈ ops, i.wellFormed = true) →
    cutFrames (ops.flatMap frame) = some (ops.flatMap wireFrames)

/-- R62, which the spec marks as derived from R47 and R51: a `DATA` frame carries the checksum of its own payload field,
and the payloads of `DATA` frames give back the bytes that were cut into full chunks. -/
def Obligations.DataFramesCarryTheirChecksumAndRoundTrip : Prop :=
  (∀ p : List Byte, p.length ≤ 64 →
    (frame (.pfData p)).length = 72 ∧ (leadingWord (frame (.pfData p))).toNat = 1 ∧
      checksum ((frame (.pfData p)).drop 8) = .ok (leadingWord ((frame (.pfData p)).drop 4)) ∧
      (frame (.pfData p)).drop 8 = p ++ List.replicate (64 - p.length) 0xFF) ∧
  ∀ bs : List Byte, bs.length % 64 = 0 →
    ∃ fs, cutFrames (((chunks bs).map .pfData).flatMap frame) = some fs ∧ extractPayloads fs = bs

/-! ### The host around the block -/

/-- R90, for any size and checksum; `HeaderIsBuiltOnTheBlock` says which ones an image has. -/
def Obligations.HeaderHasItsLayout : Prop :=
  ∀ (n : Nat) (cs : Word), n < 2 ^ 32 →
    (headerBytes n cs).length = 4096 ∧ (headerBytes n cs).take 4 = [0x00, 0x00, 0x00, 0x00] ∧
      ((headerBytes n cs).drop 4).take 4 = [0x01, 0x00, 0x00, 0x00] ∧
      (leadingWord ((headerBytes n cs).drop 8)).toNat = n ∧ leadingWord ((headerBytes n cs).drop 12) = cs ∧
      (headerBytes n cs).drop 16 = List.replicate 4080 0xFF

/-- R91, with the model's choice (log 11) that an image of 2^32 bytes or more is refused before any operation. -/
def Obligations.HeaderIsBuiltOnTheBlock : Prop :=
  ∀ (image : List Byte) (s : State), s.fault = none →
    (2 ^ 32 ≤ image.length → buildHeader image s = (s, .error .imageTooLarge)) ∧
    (image.length < 2 ^ 32 → image.length % 4 ≠ 0 →
      ∃ t, buildHeader image s = (t, .error (.blockFault .invalidLength)) ∧ t.fault = some .invalidLength ∧
        t.tx = s.tx) ∧
    (image.length < 2 ^ 32 → image.length % 4 = 0 →
      ∃ t cs, checksum image = .ok cs ∧ buildHeader image s = (t, .ok (headerBytes image.length cs)) ∧
        t.fault = none ∧ t.acc = cs ∧ t.bcnt = 0 ∧ t.tx = s.tx)

/-- R92. -/
def Obligations.ChunksAreConsecutiveAndFull : Prop :=
  ∀ bs : List Byte,
    (chunks bs).length = (bs.length + 63) / 64 ∧ (chunks bs).flatten = bs ∧
      (∀ i, i < (bs.length + 63) / 64 → (chunks bs)[i]? = some ((bs.drop (64 * i)).take 64)) ∧
      (∀ i c, (chunks bs)[i]? = some c → 1 ≤ c.length ∧ c.length ≤ 64 ∧
        (i + 1 < (chunks bs).length → c.length = 64))

/-- R96, R97, with -1 read as two's complement (log 18): only the four bytes `FF FF FF FF` are a failure, and only where
the value is checked (R100). -/
def Obligations.OnlyMinusOneIsANegativeAcknowledgement : Prop :=
  ∀ (b0 b1 b2 b3 : Byte) (checked : Bool),
    judgeReply checked (.bytes [b0, b1, b2, b3]) =
      if checked = true ∧ b0 = 0xFF ∧ b1 = 0xFF ∧ b2 = 0xFF ∧ b3 = 0xFF then some .negativeAcknowledgement else none

/-- R99: a negative acknowledgement in the header or firmware stage ends the transfer, and nothing is sent after it. That -1 is
`FF FF FF FF` is two's complement, which the spec marks as general knowledge (R96, K1; log 18). -/
def Obligations.ANegativeAcknowledgementAbortsForGood : Prop :=
  ∀ (p : HostParams) (ss : Session) (c : List Byte) (cs : List (List Byte)) (rest : List LinkReply) (n : Nat),
    (ss.phase = .sendingHeader ∨ ss.phase = .sendingFirmware) → ss.awaiting = false → ss.pending = c :: cs →
    c.length ≤ 64 → ss.block.fault = none → ss.link = .bytes [0xFF, 0xFF, 0xFF, 0xFF] :: rest →
      (Session.run p (n + 2) ss).phase = .aborted ∧
        (Session.run p (n + 2) ss).failure = some .negativeAcknowledgement ∧
        (Session.run p (n + 2) ss).link = rest ∧
        (Session.run p (n + 2) ss).block.tx = ss.block.tx ++ frame (.pfData c) ∧
        (Session.run p (n + 2) ss).block.fault = none

/-- R98: a step that sends a frame reads nothing and then awaits the acknowledgement; while one is awaited nothing is sent, and
the transfer goes on only once exactly one reply has been read. -/
def Obligations.OneFrameForEachAcknowledgement : Prop :=
  ∀ (p : HostParams) (ss : Session),
    ((ss.awaiting = false ∨ ss.phase = .idle) →
      (ss.step p).link = ss.link ∧
        ((ss.step p).block.tx = ss.block.tx ∨
          ∃ i, IsPf i = true ∧ i.wellFormed = true ∧ (ss.step p).block.tx = ss.block.tx ++ frame i ∧
            (ss.step p).awaiting = true)) ∧
    (ss.awaiting = true → ss.phase ≠ .idle →
      (ss.step p).block = ss.block ∧
        ((ss.step p).phase ≠ .done → (ss.step p).phase ≠ .aborted →
          (ss.step p).awaiting = false ∧ (ss.step p).phase = ss.phase ∧ ∃ reply, ss.link = reply :: (ss.step p).link))

/-- R100: the acknowledgement of `START` is read in every case, and of `RESET`; the parameters decide only whether -1 there
aborts. That -1 is `FF FF FF FF` is two's complement, which the spec marks as general knowledge (R96, K1; log 18). -/
def Obligations.TheParametersDecideOnlyWhatMinusOneMeans : Prop :=
  ∀ (p : HostParams) (ss : Session) (rest : List LinkReply), ss.block.fault = none →
    ss.link = .bytes [0xFF, 0xFF, 0xFF, 0xFF] :: rest →
    (ss.phase = .idle →
      (ss.step p).phase = .starting ∧ (ss.step p).block.tx = ss.block.tx ++ [0x00, 0x00, 0x00, 0x00] ∧
        ((ss.step p).step p).phase = (if p.checkStartAck then .aborted else .starting) ∧
        ((ss.step p).step p).link = rest ∧ ((ss.step p).step p).block = (ss.step p).block) ∧
    (ss.phase = .sendingFirmware → ss.awaiting = false → ss.pending = [] →
      (ss.step p).phase = .finishing ∧ (ss.step p).block.tx = ss.block.tx ++ [0x02, 0x00, 0x00, 0x00] ∧
        ((ss.step p).step p).phase = (if p.checkResetAck then .aborted else .finishing) ∧
        ((ss.step p).step p).link = rest ∧ ((ss.step p).step p).block = (ss.step p).block)

/-- C12, and the variant of program P5: for a misaligned image the `START` frame is in `TX` when the fault is raised, and nothing
follows it. That the sequencer is then `Aborted` with the block's fault is read from R104 (log 13); `Accepted` takes -1 as two's
complement (log 18). -/
def Obligations.AMisalignedImageStopsAfterStart : Prop :=
  ∀ (p : HostParams) (image : List Byte) (reply : LinkReply) (link : List LinkReply) (s : State) (n : Nat),
    s.fault = none → image.length < 2 ^ 32 → image.length % 4 ≠ 0 → Accepted reply →
      (Session.run p (n + 3) (Session.start image (reply :: link) s)).phase = .aborted ∧
        (Session.run p (n + 3) (Session.start image (reply :: link) s)).failure =
          some (.blockFault .invalidLength) ∧
        (Session.run p (n + 3) (Session.start image (reply :: link) s)).block.fault = some .invalidLength ∧
        (Session.run p (n + 3) (Session.start image (reply :: link) s)).block.tx = s.tx ++ [0x00, 0x00, 0x00, 0x00]

/-- R94, and R102, which the spec marks as derived: a transfer whose every frame is acknowledged reaches `Done`, having
sent `START`, the header's 64 chunks, the image's chunks and `RESET`, and read as many acknowledgements. `Accepted` takes
-1 as two's complement (log 18). -/
def Obligations.AnAcknowledgedTransferSendsTheWholeImage : Prop :=
  ∀ (p : HostParams) (image : List Byte) (link : List LinkReply) (s : State),
    s.fault = none → image.length % 4 = 0 → image.length < 2 ^ 32 → (∀ reply ∈ link, Accepted reply) →
    link.length = 1 + 64 + (image.length + 63) / 64 + 1 →
      ∃ n cs, checksum image = .ok cs ∧
        (Session.run p n (Session.start image link s)).phase = .done ∧
        (Session.run p n (Session.start image link s)).failure = none ∧
        (Session.run p n (Session.start image link s)).link = [] ∧
        (Session.run p n (Session.start image link s)).block.fault = none ∧
        (Session.run p n (Session.start image link s)).block.acc = cs ∧
        (Session.run p n (Session.start image link s)).block.tx =
          s.tx ++ (transferFrames image cs).flatMap frame ∧
        (Session.run p n (Session.start image link s)).block.tx.length =
          s.tx.length + (4 + 72 * (64 + (image.length + 63) / 64) + 4)

/-- R95 and C5: the sequencer goes through its states in the order of the list, is `Aborted` only from a sending state, and is
`Aborted` from each of the four when the acknowledgement it awaits does not come. -/
def Obligations.TheSequencerGoesThroughItsStatesInOrder : Prop :=
  ∀ (p : HostParams) (ss : Session),
    ((ss.step p).phase = ss.phase ∨ (ss.step p).phase ∈ successors ss.phase) ∧
      ((ss.step p).phase = .aborted → ss.phase ≠ .aborted →
        ss.phase = .starting ∨ ss.phase = .sendingHeader ∨ ss.phase = .sendingFirmware ∨ ss.phase = .finishing) ∧
      ((ss.phase = .done ∨ ss.phase = .aborted) → ss.step p = ss) ∧
      ((ss.phase = .starting ∨ ss.phase = .sendingHeader ∨ ss.phase = .sendingFirmware ∨ ss.phase = .finishing) →
        ss.awaiting = true → lastResponse ss.block = some .ok →
        ∀ rest, ss.link = .failed :: rest →
          (ss.step p).phase = .aborted ∧ (ss.step p).failure = some .transportFailure ∧ (ss.step p).block = ss.block)
end

