-- ==== Sys2Proof/Laws/State.lean ====
section
/-! SUPPORT. The state's update lemmas: one per field per named update, all true by unfolding; and the constants' values. -/

namespace Sys2Proof.Laws

open Sys2Proof.Machine

/-! ### The constants (spec/00_scope.md R8, R10) -/

@[simp] theorem constants_seed : Config.constants.seed = Config.seed := rfl
@[simp] theorem constants_wordBytes : Config.constants.wordBytes = 4 := rfl
@[simp] theorem constants_payloadSize : Config.constants.payloadSize = 64 := rfl
@[simp] theorem constants_padByte : Config.constants.padByte = 0xFF := rfl
@[simp] theorem constants_cmdStart : Config.constants.cmdStart = 0 := rfl
@[simp] theorem constants_cmdData : Config.constants.cmdData = 1 := rfl
@[simp] theorem constants_cmdReset : Config.constants.cmdReset = 2 := rfl
@[simp] theorem constants_cmdBytes : Config.constants.cmdBytes = 4 := rfl
@[simp] theorem constants_csBytes : Config.constants.csBytes = 4 := rfl
@[simp] theorem constants_ctrlFrameBytes : Config.constants.ctrlFrameBytes = 4 := rfl
@[simp] theorem constants_dataFrameBytes : Config.constants.dataFrameBytes = 72 := rfl
@[simp] theorem host_headerSize : Config.host.headerSize = 4096 := rfl
@[simp] theorem host_hdrMetaBytes : Config.host.hdrMetaBytes = 16 := rfl
@[simp] theorem host_hdrPadBytes : Config.host.hdrPadBytes = 4080 := rfl
@[simp] theorem host_hdrLoaded : Config.host.hdrLoaded = 0 := rfl
@[simp] theorem host_hdrVersion : Config.host.hdrVersion = 1 := rfl
@[simp] theorem host_ackBytes : Config.host.ackBytes = 4 := rfl
@[simp] theorem host_nack : Config.host.nack = -1 := rfl

/-! ### `emit` -/

@[simp] theorem emit_acc (bs : List Byte) (s : State) : (emit bs s).acc = s.acc := rfl
@[simp] theorem emit_lane (bs : List Byte) (s : State) : (emit bs s).lane = s.lane := rfl
@[simp] theorem emit_bcnt (bs : List Byte) (s : State) : (emit bs s).bcnt = s.bcnt := rfl
@[simp] theorem emit_fault (bs : List Byte) (s : State) : (emit bs s).fault = s.fault := rfl
@[simp] theorem emit_tx (bs : List Byte) (s : State) : (emit bs s).tx = s.tx ++ bs := rfl
@[simp] theorem emit_requests (bs : List Byte) (s : State) : (emit bs s).requests = s.requests := rfl
@[simp] theorem emit_responses (bs : List Byte) (s : State) : (emit bs s).responses = s.responses := rfl
@[simp] theorem emit_resets (bs : List Byte) (s : State) : (emit bs s).resets = s.resets := rfl

/-! ### `respond` -/

@[simp] theorem respond_acc (r : Response) (s : State) : (respond r s).acc = s.acc := rfl
@[simp] theorem respond_lane (r : Response) (s : State) : (respond r s).lane = s.lane := rfl
@[simp] theorem respond_bcnt (r : Response) (s : State) : (respond r s).bcnt = s.bcnt := rfl
@[simp] theorem respond_fault (r : Response) (s : State) : (respond r s).fault = s.fault := rfl
@[simp] theorem respond_tx (r : Response) (s : State) : (respond r s).tx = s.tx := rfl
@[simp] theorem respond_requests (r : Response) (s : State) : (respond r s).requests = s.requests := rfl
@[simp] theorem respond_responses (r : Response) (s : State) : (respond r s).responses = s.responses ++ [r] := rfl
@[simp] theorem respond_resets (r : Response) (s : State) : (respond r s).resets = s.resets := rfl

/-! ### `raise` -/

@[simp] theorem raise_acc (f : BlockFault) (s : State) : (raise f s).acc = s.acc := rfl
@[simp] theorem raise_lane (f : BlockFault) (s : State) : (raise f s).lane = s.lane := rfl
@[simp] theorem raise_bcnt (f : BlockFault) (s : State) : (raise f s).bcnt = s.bcnt := rfl
@[simp] theorem raise_fault (f : BlockFault) (s : State) : (raise f s).fault = some f := rfl
@[simp] theorem raise_tx (f : BlockFault) (s : State) : (raise f s).tx = s.tx := rfl
@[simp] theorem raise_requests (f : BlockFault) (s : State) : (raise f s).requests = s.requests := rfl
@[simp] theorem raise_responses (f : BlockFault) (s : State) : (raise f s).responses = s.responses ++ [.fault f] := rfl
@[simp] theorem raise_resets (f : BlockFault) (s : State) : (raise f s).resets = s.resets := rfl

/-! ### `startSum` -/

@[simp] theorem startSum_acc (s : State) : (startSum s).acc = Config.seed := rfl
@[simp] theorem startSum_lane (s : State) : (startSum s).lane = s.lane := rfl
@[simp] theorem startSum_bcnt (s : State) : (startSum s).bcnt = 0 := rfl
@[simp] theorem startSum_fault (s : State) : (startSum s).fault = s.fault := rfl
@[simp] theorem startSum_tx (s : State) : (startSum s).tx = s.tx := rfl
@[simp] theorem startSum_requests (s : State) : (startSum s).requests = s.requests := rfl
@[simp] theorem startSum_responses (s : State) : (startSum s).responses = s.responses := rfl
@[simp] theorem startSum_resets (s : State) : (startSum s).resets = s.resets := rfl

/-! ### `latchByte` -/

@[simp] theorem latchByte_acc (b : Byte) (s : State) : (latchByte b s).acc = s.acc := rfl
@[simp] theorem latchByte_lane (b : Byte) (s : State) : (latchByte b s).lane = s.lane.set s.bcnt.toNat b s.bcnt.isLt := rfl
@[simp] theorem latchByte_bcnt (b : Byte) (s : State) : (latchByte b s).bcnt = s.bcnt := rfl
@[simp] theorem latchByte_fault (b : Byte) (s : State) : (latchByte b s).fault = s.fault := rfl
@[simp] theorem latchByte_tx (b : Byte) (s : State) : (latchByte b s).tx = s.tx := rfl
@[simp] theorem latchByte_requests (b : Byte) (s : State) : (latchByte b s).requests = s.requests := rfl
@[simp] theorem latchByte_responses (b : Byte) (s : State) : (latchByte b s).responses = s.responses := rfl
@[simp] theorem latchByte_resets (b : Byte) (s : State) : (latchByte b s).resets = s.resets := rfl

/-! ### `setRequests` -/

@[simp] theorem setRequests_acc (rest : List HostEvent) (s : State) : (setRequests rest s).acc = s.acc := rfl
@[simp] theorem setRequests_lane (rest : List HostEvent) (s : State) : (setRequests rest s).lane = s.lane := rfl
@[simp] theorem setRequests_bcnt (rest : List HostEvent) (s : State) : (setRequests rest s).bcnt = s.bcnt := rfl
@[simp] theorem setRequests_fault (rest : List HostEvent) (s : State) : (setRequests rest s).fault = s.fault := rfl
@[simp] theorem setRequests_tx (rest : List HostEvent) (s : State) : (setRequests rest s).tx = s.tx := rfl
@[simp] theorem setRequests_requests (rest : List HostEvent) (s : State) : (setRequests rest s).requests = rest := rfl
@[simp] theorem setRequests_responses (rest : List HostEvent) (s : State) : (setRequests rest s).responses = s.responses := rfl
@[simp] theorem setRequests_resets (rest : List HostEvent) (s : State) : (setRequests rest s).resets = s.resets := rfl

/-! ### `resetBlock` -/

@[simp] theorem resetBlock_acc (s : State) : (resetBlock s).acc = Config.seed := rfl
@[simp] theorem resetBlock_lane (s : State) : (resetBlock s).lane = Config.laneAfterReset s.resets := rfl
@[simp] theorem resetBlock_bcnt (s : State) : (resetBlock s).bcnt = 0 := rfl
@[simp] theorem resetBlock_fault (s : State) : (resetBlock s).fault = none := rfl
@[simp] theorem resetBlock_tx (s : State) : (resetBlock s).tx = [] := rfl
@[simp] theorem resetBlock_requests (s : State) : (resetBlock s).requests = s.requests := rfl
@[simp] theorem resetBlock_responses (s : State) : (resetBlock s).responses = s.responses := rfl
@[simp] theorem resetBlock_resets (s : State) : (resetBlock s).resets = s.resets + 1 := rfl

/-! ### `present` -/

@[simp] theorem present_acc (r : Request) (s : State) : (present r s).acc = s.acc := rfl
@[simp] theorem present_lane (r : Request) (s : State) : (present r s).lane = s.lane := rfl
@[simp] theorem present_bcnt (r : Request) (s : State) : (present r s).bcnt = s.bcnt := rfl
@[simp] theorem present_fault (r : Request) (s : State) : (present r s).fault = s.fault := rfl
@[simp] theorem present_tx (r : Request) (s : State) : (present r s).tx = s.tx := rfl
@[simp] theorem present_requests (r : Request) (s : State) : (present r s).requests = .request r :: s.requests := rfl
@[simp] theorem present_responses (r : Request) (s : State) : (present r s).responses = s.responses := rfl
@[simp] theorem present_resets (r : Request) (s : State) : (present r s).resets = s.resets := rfl

end Sys2Proof.Laws
end

