-- ==== Sys2Proof/Laws/Decode.lean ====
section
/-! SUPPORT. The fields of a CE request, taken out again. -/

namespace Sys2Proof.Laws

@[simp] theorem ceOp_append (op : BitVec 2) (data : Byte) : ceOp (op ++ data) = op := by
  revert op data; decide

@[simp] theorem ceData_append (op : BitVec 2) (data : Byte) : ceData (op ++ data) = data := by
  revert op data; decide

/-- A CE request is its selector and its data byte, whatever its bits (R52). -/
theorem ceReq_eq_append (r : BitVec 10) : ceOp r ++ ceData r = r := by
  revert r; decide

/-- No request is of two rows of the opcode table (R61). -/
theorem opcodeTable_disjoint :
    opcodeTable.Pairwise fun a b => a.width ≠ b.width ∨ Nat.land a.pattern b.mask ≠ b.pattern := by
  decide

end Sys2Proof.Laws
end

