-- ==== Sys2Proof/Laws/Ops.lean ====
section
/-! SUPPORT. What the shared operations of Machine/Ops.lean can do, said once: the two byte orders of a word undo each other, the
check that begins every operation has two outcomes, and absorbing a byte has two. -/

namespace Sys2Proof.Laws

open Sys2Proof.Machine

@[simp] theorem bytesOfWord_length (w : Word) : (bytesOfWord w).length = 4 := rfl

/-- R32: the value of a word assembled from four bytes. -/
theorem wordOfBytes_toNat (b0 b1 b2 b3 : Byte) :
    (wordOfBytes b0 b1 b2 b3).toNat = b0.toNat + 2 ^ 8 * b1.toNat + 2 ^ 16 * b2.toNat + 2 ^ 24 * b3.toNat := by
  have h0 := b0.isLt
  have h1 := b1.isLt
  have h2 := b2.isLt
  simp only [wordOfBytes, BitVec.toNat_append]
  rw [← Nat.shiftLeft_add_eq_or_of_lt h0, ← Nat.shiftLeft_add_eq_or_of_lt h1, ← Nat.shiftLeft_add_eq_or_of_lt h2]
  simp only [Nat.shiftLeft_eq]
  omega

/-- R12: "`le32` applied to the four bytes of `LE32(w)` gives `w` back". -/
theorem wordOfBytes_bytesOfWord (w : Word) :
    wordOfBytes (w.extractLsb' 0 8) (w.extractLsb' 8 8) (w.extractLsb' 16 8) (w.extractLsb' 24 8) = w := by
  have hw := w.isLt
  apply BitVec.eq_of_toNat_eq
  rw [wordOfBytes_toNat]
  simp only [BitVec.extractLsb'_toNat, Nat.shiftRight_eq_div_pow]
  omega

/-- R12: the bytes of a word as remainders of its value. -/
theorem bytesOfWord_eq_ofNat (w : Word) :
    bytesOfWord w = [BitVec.ofNat 8 w.toNat, BitVec.ofNat 8 (w.toNat / 2 ^ 8), BitVec.ofNat 8 (w.toNat / 2 ^ 16),
      BitVec.ofNat 8 (w.toNat / 2 ^ 24)] := by
  simp only [bytesOfWord, List.cons.injEq, and_true]
  refine ⟨?_, ?_, ?_, ?_⟩ <;> apply BitVec.eq_of_toNat_eq <;>
    simp only [BitVec.extractLsb'_toNat, BitVec.toNat_ofNat, Nat.shiftRight_eq_div_pow, pow_zero, Nat.div_one]

theorem whenClear_of_clear {s : State} (body : State) (h : s.fault = none) : whenClear s body = body := by
  simp [whenClear, h]

theorem whenClear_of_faulted {s : State} (body : State) {f : BlockFault} (h : s.fault = some f) :
    whenClear s body = respond (.fault f) s := by
  simp [whenClear, h]

/-- The two outcomes of the check that begins every operation (R107). -/
theorem whenClear_cases (s body : State) :
    (s.fault = none ∧ whenClear s body = body) ∨
      ∃ f, s.fault = some f ∧ whenClear s body = respond (.fault f) s := by
  cases h : s.fault with
  | none => exact .inl ⟨rfl, whenClear_of_clear body h⟩
  | some f => exact .inr ⟨f, rfl, whenClear_of_faulted body h⟩

/-- Absorbing a byte that does not complete a word (R65). -/
theorem absorb_partial (b : Byte) {s : State} (h : s.bcnt ≠ 3) :
    absorb b s = { s with lane := s.lane.set s.bcnt.toNat b s.bcnt.isLt, bcnt := s.bcnt + 1 } := by
  simp only [absorb, if_neg h, latchByte]

/-- Absorbing the byte that completes a word (R65). -/
theorem absorb_complete (b : Byte) {s : State} (h : s.bcnt = 3) :
    absorb b s =
      { s with
        acc := s.acc + wordOfBytes s.lane[0] s.lane[1] s.lane[2] b
        lane := s.lane.set 3 b
        bcnt := 0 } := by
  simp [absorb, h, latchByte, laneWord]

@[simp] theorem absorb_fault (b : Byte) (s : State) : (absorb b s).fault = s.fault := by
  simp only [absorb]; split <;> rfl

@[simp] theorem absorb_tx (b : Byte) (s : State) : (absorb b s).tx = s.tx := by
  simp only [absorb]; split <;> rfl

@[simp] theorem absorb_requests (b : Byte) (s : State) : (absorb b s).requests = s.requests := by
  simp only [absorb]; split <;> rfl

@[simp] theorem absorb_responses (b : Byte) (s : State) : (absorb b s).responses = s.responses := by
  simp only [absorb]; split <;> rfl

@[simp] theorem absorb_resets (b : Byte) (s : State) : (absorb b s).resets = s.resets := by
  simp only [absorb]; split <;> rfl

end Sys2Proof.Laws
end

