-- ==== Sys2Proof/Laws/Operands.lean ====
section
/-! SUPPORT. The laws of the running sum over byte sequences, and the lengths of the padded payload and of the frames. -/

namespace Sys2Proof.Laws

open Sys2Proof.Machine

/-- Induction on the words of a byte sequence: it holds of fewer than four bytes, and putting a word in front keeps it. -/
theorem bytes_induction {P : List Byte → Prop} (short : ∀ s : List Byte, s.length < 4 → P s)
    (word : ∀ b0 b1 b2 b3 rest, P rest → P (b0 :: b1 :: b2 :: b3 :: rest)) : ∀ s, P s
  | [] => short [] (by simp)
  | [a] => short [a] (by simp)
  | [a, b] => short [a, b] (by simp)
  | [a, b, c] => short [a, b, c] (by simp)
  | b0 :: b1 :: b2 :: b3 :: rest => word b0 b1 b2 b3 rest (bytes_induction short word rest)

theorem sumWords_cons (acc : Word) (b0 b1 b2 b3 : Byte) (rest : List Byte) :
    sumWords acc (b0 :: b1 :: b2 :: b3 :: rest) = sumWords (acc + wordOfBytes b0 b1 b2 b3) rest := rfl

/-- Fewer than four bytes are no word (R65). -/
theorem sumWords_of_short (acc : Word) {s : List Byte} (h : s.length < 4) : sumWords acc s = acc := by
  match s, h with
  | [], _ => rfl
  | [_], _ => rfl
  | [_, _], _ => rfl
  | [_, _, _], _ => rfl
  | _ :: _ :: _ :: _ :: _, h => simp at h; omega

/-- A whole number of words before `t` is summed first (R72 (a) rests on it). -/
theorem sumWords_append (acc : Word) (s t : List Byte) (h : s.length % 4 = 0) :
    sumWords acc (s ++ t) = sumWords (sumWords acc s) t := by
  induction s using bytes_induction generalizing acc with
  | short s hs =>
    obtain rfl : s = [] := List.length_eq_zero_iff.mp (by omega)
    rfl
  | word b0 b1 b2 b3 rest ih =>
    simp only [List.cons_append, sumWords_cons]
    exact ih _ (by simp at h; omega)

/-- The sum is additive in its start value (R69). -/
theorem sumWords_add (a acc : Word) (s : List Byte) : sumWords (a + acc) s = a + sumWords acc s := by
  induction s using bytes_induction generalizing acc with
  | short s hs => rw [sumWords_of_short _ hs, sumWords_of_short _ hs]
  | word b0 b1 b2 b3 rest ih => simp only [sumWords_cons, BitVec.add_assoc, ih]

/-- The start value taken out (R67's closed form). -/
theorem sumWords_eq_add (acc : Word) (s : List Byte) : sumWords acc s = acc + sumWords 0 s := by
  simpa using sumWords_add acc 0 s

/-- The checksum of a whole number of words (R67). -/
theorem checksum_of_aligned {s : List Byte} (h : s.length % 4 = 0) : checksum s = .ok (sumWords Config.seed s) :=
  if_neg (not_not_intro h)

/-- The checksum of anything else (R67). -/
theorem checksum_of_misaligned {s : List Byte} (h : s.length % 4 ≠ 0) : checksum s = .error .invalidLength :=
  if_pos h

/-- The inversion lemma of `checksum`. -/
theorem checksum_eq_ok {s : List Byte} {v : Word} (h : checksum s = .ok v) :
    s.length % 4 = 0 ∧ v = sumWords Config.seed s := by
  by_cases hs : s.length % 4 = 0
  · rw [checksum_of_aligned hs] at h
    injection h with h
    exact ⟨hs, h.symm⟩
  · rw [checksum_of_misaligned hs] at h
    cases h

/-- The padded payload with the constants' values (R50). -/
theorem padPayload_eq (p : List Byte) : padPayload p = p ++ List.replicate (64 - p.length) 0xFF := rfl

/-- The `DATA` frame with the constants' values (R47). -/
theorem dataFrame_eq (p : List Byte) :
    dataFrame p = [0x01, 0x00, 0x00, 0x00] ++ bytesOfWord (payloadChecksum p) ++ padPayload p := rfl

theorem padPayload_length {p : List Byte} (h : p.length ≤ 64) : (padPayload p).length = 64 := by
  simp [padPayload]; omega

/-- The one operand that can be illegal (R57). -/
theorem wellFormed_pfData {p : List Byte} : (Instr.pfData p).wellFormed = true ↔ p.length ≤ 64 :=
  decide_eq_true_iff

theorem ctrlFrame_length (cmd : Word) : (ctrlFrame cmd).length = 4 := rfl

theorem dataFrame_length {p : List Byte} (h : p.length ≤ 64) : (dataFrame p).length = 72 := by
  simp [dataFrame, padPayload_length h]

theorem oversize_eq_false {p : List Byte} (h : p.length ≤ 64) : oversize p = false := by
  simp [oversize, h]

theorem oversize_eq_true {p : List Byte} (h : 64 < p.length) : oversize p = true := by
  simp [oversize, h]

/-- The code of `FAULT` says which fault stands, and every code is used (R105). -/
theorem faultOfCode_faultCode (f : Option BlockFault) : faultOfCode (faultCode f) = f := by
  rcases f with _ | f
  · rfl
  · cases f <;> rfl

theorem faultCode_faultOfCode (c : BitVec 2) : faultCode (faultOfCode c) = c := by
  revert c; decide

end Sys2Proof.Laws
end

