-- ==== Sys2Proof/Laws/Exec.lean ====
section
/-! SUPPORT. What `exec` can do, said once: every operation ends in a next state, that of `issue`, whose form is given for each
operation on a clear block and once for a faulted one. -/

namespace Sys2Proof.Laws

open Sys2Proof.Machine

/-- Every operation ends in a next state (R24: every request gets a response). -/
theorem exec_eq_issue (i : Instr) (s : State) : exec i s = .next (issue i s) := by
  cases i <;> rfl

/-- The inversion lemma of `exec`. -/
theorem exec_eq_next_iff {i : Instr} {s t : State} : exec i s = .next t ↔ t = issue i s := by
  rw [exec_eq_issue]
  exact ⟨fun h => by injection h with h; exact h.symm, fun h => by rw [h]⟩

theorem issue_of_faulted {i : Instr} {s : State} {f : BlockFault} (h : s.fault = some f) :
    issue i s = respond (.fault f) s := by
  cases i <;> exact whenClear_of_faulted _ h

theorem issue_csInit {s : State} (h : s.fault = none) : issue .csInit s = respond .ok (startSum s) :=
  whenClear_of_clear _ h

theorem issue_csByte {b : Byte} {s : State} (h : s.fault = none) :
    issue (.csByte b) s = respond .ok (absorb b s) :=
  whenClear_of_clear _ h

theorem issue_csFinish_aligned {s : State} (h : s.fault = none) (hb : s.bcnt = 0) :
    issue .csFinish s = respond (.okWord s.acc) s := by
  have hm : misaligned s = false := by simp [misaligned, hb]
  exact (whenClear_of_clear _ h).trans (by rw [hm]; rfl)

theorem issue_csFinish_misaligned {s : State} (h : s.fault = none) (hb : s.bcnt ≠ 0) :
    issue .csFinish s = raise .invalidLength s := by
  have hm : misaligned s = true := by simpa [misaligned] using hb
  exact (whenClear_of_clear _ h).trans (by rw [hm]; rfl)

theorem issue_pfStart {s : State} (h : s.fault = none) :
    issue .pfStart s = respond .ok (emit (frame .pfStart) s) :=
  whenClear_of_clear _ h

theorem issue_pfReset {s : State} (h : s.fault = none) :
    issue .pfReset s = respond .ok (emit (frame .pfReset) s) :=
  whenClear_of_clear _ h

theorem issue_pfData {p : List Byte} {s : State} (h : s.fault = none) (hp : p.length ≤ 64) :
    issue (.pfData p) s = respond .ok (emit (frame (.pfData p)) s) :=
  (whenClear_of_clear _ h).trans (by rw [oversize_eq_false hp]; rfl)

theorem issue_pfData_oversize {p : List Byte} {s : State} (h : s.fault = none) (hp : 64 < p.length) :
    issue (.pfData p) s = raise .payloadTooLarge s :=
  (whenClear_of_clear _ h).trans (by rw [oversize_eq_true hp]; rfl)

/-- What the host will still do plays no part in an operation. -/
theorem issue_setRequests (i : Instr) (q : List HostEvent) (s : State) :
    issue i (setRequests q s) = setRequests q (issue i s) := by
  cases h : s.fault with
  | some f =>
    rw [issue_of_faulted h, issue_of_faulted (s := setRequests q s) h]
    rfl
  | none =>
    have h' : (setRequests q s).fault = none := h
    cases i with
    | csInit => rw [issue_csInit h, issue_csInit h']; rfl
    | csByte b =>
      rw [issue_csByte h, issue_csByte h']
      by_cases hb : s.bcnt = 3
      · rw [absorb_complete b hb, absorb_complete (s := setRequests q s) b hb]; rfl
      · rw [absorb_partial b hb, absorb_partial (s := setRequests q s) b hb]; rfl
    | csFinish =>
      by_cases hb : s.bcnt = 0
      · rw [issue_csFinish_aligned h hb, issue_csFinish_aligned h' hb]; rfl
      · rw [issue_csFinish_misaligned h hb, issue_csFinish_misaligned h' hb]; rfl
    | pfStart => rw [issue_pfStart h, issue_pfStart h']; rfl
    | pfData p =>
      by_cases hp : p.length ≤ 64
      · rw [issue_pfData h hp, issue_pfData h' hp]; rfl
      · rw [issue_pfData_oversize h (by omega), issue_pfData_oversize h' (by omega)]; rfl
    | pfReset => rw [issue_pfReset h, issue_pfReset h']; rfl

/-! ### Issuing a list of operations -/

@[simp] theorem issueAll_nil (s : State) : issueAll [] s = s := rfl

@[simp] theorem issueAll_cons (i : Instr) (ops : List Instr) (s : State) :
    issueAll (i :: ops) s = issueAll ops (issue i s) := rfl

theorem issueAll_append (a b : List Instr) (s : State) : issueAll (a ++ b) s = issueAll b (issueAll a s) := by
  simp [issueAll]

end Sys2Proof.Laws
end

