-- ==== Sys2Proof/Laws/FrameReader.lean ====
section
/-! SUPPORT. The reader of frames, one frame at a time. -/

namespace Sys2Proof.Laws

open Sys2Proof.Machine

@[simp] theorem cutFramesFuel_nil (fuel : Nat) : cutFramesFuel fuel [] = some [] := by cases fuel <;> rfl

/-- One frame cut off, with the constants' values (R49). -/
theorem cutFramesFuel_succ (fuel : Nat) {bs : List Byte} (h : bs ≠ []) :
    cutFramesFuel (fuel + 1) bs =
      if bs.length < 4 then none
      else if leadingWord bs = 1 then
        if bs.length < 72 then none
        else
          (cutFramesFuel fuel (bs.drop 72)).map
            (WireFrame.data (leadingWord ((bs.take 72).drop 4)) (((bs.take 72).drop 4).drop 4) :: ·)
      else (cutFramesFuel fuel (bs.drop 4)).map (WireFrame.ctrl (leadingWord bs) :: ·) := by
  cases bs with
  | nil => exact absurd rfl h
  | cons b bs => rfl

/-- The first word of bytes that begin with a word's own. -/
@[simp] theorem leadingWord_bytesOfWord (w : Word) (t : List Byte) : leadingWord (bytesOfWord w ++ t) = w :=
  wordOfBytes_bytesOfWord w

end Sys2Proof.Laws
end

