-- ==== Sys2Proof/Laws/PerInstr.lean ====
section
/-! SUPPORT. Statements made of every operation, one lemma per constructor. -/

namespace Sys2Proof.Laws.MatchesItsRow

/-- The request that selects an operation is of the operation's own row of spec/opcode_table.json (R61). -/
def Statement (i : Instr) : Prop := ∃ row ∈ opcodeTable, row.mnemonic = i.mnemonic ∧ row.covers (encode i) = true

theorem csInit : Statement .csInit := by simp only [Statement]; decide

theorem csByte (b : Byte) : Statement (.csByte b) := by simp only [Statement]; revert b; decide

theorem csFinish : Statement .csFinish := by simp only [Statement]; decide

theorem pfStart : Statement .pfStart := by simp only [Statement]; decide

theorem pfData (payload : List Byte) : Statement (.pfData payload) :=
  ⟨⟨"PF.DATA", 32, 0x00000001, 0xFFFFFFFF⟩, by decide, rfl, (by decide : Nat.land 1 0xFFFFFFFF == 1)⟩

theorem pfReset : Statement .pfReset := by simp only [Statement]; decide

end Sys2Proof.Laws.MatchesItsRow
end

