-- ==== Sys2Proof/Laws/Sequencer.lean ====
section
/-! SUPPORT. What the sequencer's steps can do: waiting for an acknowledgement has its outcomes said once, and a session that has
stopped stays as it is. -/

namespace Sys2Proof.Laws

open Sys2Proof.Machine

theorem step_of_not_awaiting {p : HostParams} {ss : Session} (h : ss.awaiting = false) : ss.step p = ss.advance := by
  rw [Session.step, h, Bool.and_false]; rfl

theorem step_of_awaiting {p : HostParams} {ss : Session} (hp : ss.phase.sending = true) (h : ss.awaiting = true) :
    ss.step p = ss.collect p := by
  rw [Session.step, hp, h]; rfl

theorem step_of_not_sending {p : HostParams} {ss : Session} (hp : ss.phase.sending = false) : ss.step p = ss.advance := by
  rw [Session.step, hp]; rfl

/-- Reading a reply after an operation the block did not fault: what the reply is judged decides. -/
theorem collect_reply {p : HostParams} {ss : Session} {reply : LinkReply} {rest : List LinkReply}
    (hb : lastResponse ss.block = some .ok) (hl : ss.link = reply :: rest) :
    ss.collect p =
      ({ ss with link := rest, awaiting := false } : Session).settle (judgeReply (p.checks ss.phase) reply) := by
  simp only [Session.collect, hb, hl]

theorem settle_block (verdict : Option HostFailure) (ss : Session) : (ss.settle verdict).block = ss.block := by
  cases verdict <;> rfl

theorem settle_cases (verdict : Option HostFailure) (ss : Session) :
    (ss.settle verdict).phase = .aborted ∨ ss.settle verdict = ss := by
  cases verdict with
  | some why => exact .inl rfl
  | none => exact .inr rfl

/-- Every outcome of waiting: stopped with the block as it was, or one reply read and the state kept. -/
theorem collect_cases (p : HostParams) (ss : Session) :
    (ss.collect p).block = ss.block ∧
      ((ss.collect p).phase = .aborted ∨
        ∃ reply rest, ss.link = reply :: rest ∧ ss.collect p = { ss with link := rest, awaiting := false }) := by
  rw [Session.collect]
  split
  · exact ⟨rfl, .inl rfl⟩
  · split
    · exact ⟨rfl, .inl rfl⟩
    · rename_i reply rest hl
      exact ⟨settle_block _ _, (settle_cases _ _).imp_right fun h => ⟨reply, rest, hl, h⟩⟩

/-- The last response is the one just given. -/
theorem lastResponse_respond (r : Response) (s : State) : lastResponse (respond r s) = some r := List.getLast?_concat

theorem run_of_aborted {p : HostParams} {ss : Session} (h : ss.phase = .aborted) (n : Nat) : Session.run p n ss = ss := by
  induction n with
  | zero => rfl
  | succ n ih =>
    rw [Session.run, step_of_not_sending (by rw [h]; rfl), Session.advance, h]
    exact ih

end Sys2Proof.Laws
end

