-- ==== Sys2Proof/Laws/Step.lean ====
section
/-! SUPPORT. What `step` can do, said once. -/

namespace Sys2Proof.Laws

open Sys2Proof.Machine

theorem step_of_reset {s : State} {rest : List HostEvent} (h : s.requests = .reset :: rest) :
    step s = .next (resetBlock (setRequests rest s)) := by
  simp [step, takeNext, h, handle]

theorem step_of_request {s : State} {r : Request} {rest : List HostEvent} (h : s.requests = .request r :: rest) :
    step s = serve r (setRequests rest s) := by
  simp [step, takeNext, h, handle]

theorem serve_of_reserved {r : Request} {e : DecodeError} {s : State} (h : decode r = .error e) :
    serve r s = .next (whenClear s (raise .invalidCommand s)) := by
  simp [serve, h]

/-- The inversion lemma of `serve`: the operation's next state, or the entry into `InvalidCommand`. -/
theorem serve_cases (r : Request) (s : State) :
    (∃ i, decode r = .ok i ∧ serve r s = .next (issue i s)) ∨
      ∃ e, decode r = .error e ∧ serve r s = .next (whenClear s (raise .invalidCommand s)) := by
  cases h : decode r with
  | ok i => exact .inl ⟨i, rfl, by simp [serve, h, exec_eq_issue]⟩
  | error e => exact .inr ⟨e, rfl, serve_of_reserved h⟩

/-- The inversion lemma of `step`. -/
theorem step_cases {s t : State} (h : step s = .next t) :
    ∃ rest,
      (s.requests = .reset :: rest ∧ t = resetBlock (setRequests rest s)) ∨
        ∃ r, s.requests = .request r :: rest ∧
          ((∃ i, decode r = .ok i ∧ t = issue i (setRequests rest s)) ∨
            ∃ e, decode r = .error e ∧
              t = whenClear (setRequests rest s) (raise .invalidCommand (setRequests rest s))) := by
  cases hr : s.requests with
  | nil => simp [step, takeNext, hr] at h
  | cons ev rest =>
    refine ⟨rest, ?_⟩
    cases ev with
    | reset =>
      rw [step_of_reset hr] at h
      injection h with h
      exact .inl ⟨rfl, h.symm⟩
    | request r =>
      rw [step_of_request hr] at h
      obtain ⟨i, hd, hs⟩ | ⟨e, hd, hs⟩ := serve_cases r (setRequests rest s) <;>
        rw [hs] at h <;> injection h with h
      · exact .inr ⟨r, rfl, .inl ⟨i, hd, h.symm⟩⟩
      · exact .inr ⟨r, rfl, .inr ⟨e, hd, h.symm⟩⟩

end Sys2Proof.Laws
end

