-- ==== Sys2Proof/Tests/Slice0.lean ====
section
/-! SUPPORT. Tests. The expected values are those of spec/95_test_vectors.md (V, P and S numbers) and of the worked examples of the
rules named. The `witness_` theorems show, for each statement of Certificates/Slice0/Obligations.lean that has hypotheses, a
state and operands that meet them. -/

namespace Sys2Proof.Tests

open Sys2Proof.Machine Sys2Proof.Safety Sys2Proof.Laws

/-! ### Small states -/

/-- A block at a word boundary, not faulted, with `acc` in `ACC` and nothing asked. -/
def block (acc : Word) : State where
  acc := acc
  lane := #v[0xA0, 0xA1, 0xA2, 0xA3]
  bcnt := 0
  fault := none
  tx := []
  requests := []
  responses := []
  resets := 1

/-- The same with `n` bytes of a word taken in. -/
def midWord (n : BitVec 2) : State := { block 0x12345678 with bcnt := n }

/-- The same with a fault standing. -/
def faulted (f : BlockFault) : State := { block 0x12345678 with fault := some f }

/-- A state with one thing asked. -/
def asked (e : HostEvent) (s : State) : State := { s with requests := [e] }

/-! ### Decoding: words written out from R52 and R53 -/

theorem test_decode_csInit : decode (.ce 0b0000000000#10) = .ok .csInit := by decide
theorem test_decode_csInit_ignores_data : decode (.ce 0b0011111111#10) = .ok .csInit := by decide
theorem test_decode_csByte : decode (.ce 0b0111101111#10) = .ok (.csByte 0xEF) := by decide
theorem test_decode_csFinish : decode (.ce 0b1001010101#10) = .ok .csFinish := by decide
theorem test_decode_pfStart : decode (.pfe 0b00000000000000000000000000000000#32 [0xAA]) = .ok .pfStart := by decide
theorem test_decode_pfData :
    decode (.pfe 0b00000000000000000000000000000001#32 [0x01, 0x02]) = .ok (.pfData [0x01, 0x02]) := by decide
theorem test_decode_pfReset : decode (.pfe 0b00000000000000000000000000000010#32 []) = .ok .pfReset := by decide

/-- V55, V53, V54: reserved selectors, refused by name. -/
theorem test_decode_reserved :
    decode (.ce 0x300#10) = .error .reservedCeOp ∧
      decode (.pfe 0x00000003 []) = .error (.reservedPfCmd 0x00000003) ∧
      decode (.pfe 0x02000000 []) = .error (.reservedPfCmd 0x02000000) := by decide

theorem test_table_words :
    decodeTableWord 16 0x101 = some (.csByte 0x01) ∧ decodeTableWord 10 0x200 = some .csFinish ∧
      decodeTableWord 16 0x300 = none ∧ decodeTableWord 32 1 = some (.pfData []) ∧
      decodeTableWord 48 0x020100000001 = some (.pfData [0x01, 0x02]) ∧ decodeTableWord 32 3 = none := by decide

/-- V52 against V51: 64 bytes are legal, 65 are not. -/
theorem smoke_wellFormed_payload :
    (Instr.pfData (List.replicate 64 0x00)).wellFormed = true ∧
      (Instr.pfData (List.replicate 65 0x00)).wellFormed = false := by decide

/-! ### The checksum engine -/

/-- V20. -/
theorem test_csInit_mid_word :
    exec .csInit (midWord 2) =
      .next { midWord 2 with acc := Config.seed, bcnt := 0, responses := [.ok] } := rfl

/-- V22. -/
theorem test_csInit_faulted :
    exec .csInit (faulted .invalidLength) =
      .next { faulted .invalidLength with responses := [.fault .invalidLength] } := rfl

/-- R65's example, its last byte: `0xFFFFFFFF + 2` wraps. -/
theorem test_csByte_completes_a_word_and_wraps :
    issue (.csByte 0x00) { block 0xFFFFFFFF with lane := #v[0x02, 0x00, 0x00, 0x77], bcnt := 3 } =
      { block 0x00000001 with lane := #v[0x02, 0x00, 0x00, 0x00], responses := [.ok] } := by decide

/-- The trace of section 2.2, second byte: it goes to lane 1 and `ACC` keeps its value. -/
theorem test_csByte_partial :
    issue (.csByte 0xBE) { midWord 1 with lane := #v[0xEF, 0x00, 0x00, 0x00] } =
      { midWord 2 with lane := #v[0xEF, 0xBE, 0x00, 0x00], responses := [.ok] } := by decide

/-- V50. -/
theorem test_csFinish_misaligned :
    issue .csFinish (midWord 1) =
      { midWord 1 with fault := some .invalidLength, responses := [.fault .invalidLength] } := by decide

/-- V59. -/
theorem test_csFinish_aligned :
    issue .csFinish (block 0xDEADBEEF) = { block 0xDEADBEEF with responses := [.okWord 0xDEADBEEF] } := by decide

/-- S6: after reset the checksum of nothing is `SEED`. -/
theorem test_csFinish_after_reset :
    issue .csFinish State.reset = { State.reset with responses := [.okWord Config.seed] } := rfl

/-- V4, V8, V9: the byte order and the wrap. -/
theorem test_sum_of_words :
    sumWords 0 [0x01, 0x02, 0x03, 0x04] = 0x04030201 ∧
      sumWords 0 [0x00, 0x00, 0x00, 0x80, 0x00, 0x00, 0x00, 0x80] = 0 ∧
      sumWords 0 [0x00, 0x01, 0x02, 0x03, 0x04, 0x05, 0x06, 0x07] = 0x0A080604 := by decide

/-- V10. -/
theorem test_sum_of_64_bytes : sumWords 0 ((List.range 64).map (BitVec.ofNat 8)) = 0x1201F1E0 := by decide

/-- V13. -/
theorem test_checksum_misaligned : checksum [0x01, 0x00, 0x00] = .error .invalidLength := rfl

/-! ### The packet frame encoder -/

/-- V30. -/
theorem test_pfStart : issue .pfStart (block 0) = { block 0 with tx := [0x00, 0x00, 0x00, 0x00], responses := [.ok] } := by
  decide

/-- V31, from R80's example. -/
theorem test_pfReset :
    (issue .pfReset { block 0 with tx := [0x00, 0x00, 0x00, 0x00] }).tx =
      [0x00, 0x00, 0x00, 0x00, 0x02, 0x00, 0x00, 0x00] := by decide

/-- V40, V41, V42, V45: the checksum field, for every `SEED`. -/
theorem test_payload_checksums :
    payloadChecksum [] = Config.seed + 0xFFFFFFF0 ∧
      payloadChecksum [0x01, 0x02, 0x03] = Config.seed + 0xFF0301F2 ∧
      payloadChecksum [0x01, 0x02, 0x03, 0x04, 0x05] = Config.seed + 0x040300F8 ∧
      payloadChecksum (List.replicate 63 0x10) = Config.seed + 0xF0010100 :=
  ⟨(sumWords_eq_add _ _).trans (congrArg _ (by decide)), (sumWords_eq_add _ _).trans (congrArg _ (by decide)),
    (sumWords_eq_add _ _).trans (congrArg _ (by decide)), (sumWords_eq_add _ _).trans (congrArg _ (by decide))⟩

/-- V41: the frame begins with its command and its payload stands at offset 8. -/
theorem test_pfData_layout :
    (dataFrame [0x01, 0x02, 0x03]).take 4 = [0x01, 0x00, 0x00, 0x00] ∧
      (dataFrame [0x01, 0x02, 0x03]).drop 8 = [0x01, 0x02, 0x03] ++ List.replicate 61 0xFF := ⟨rfl, rfl⟩

/-- V51. -/
theorem test_pfData_oversize :
    issue (.pfData (List.replicate 65 0x00)) (block 0) =
      { block 0 with fault := some .payloadTooLarge, responses := [.fault .payloadTooLarge] } := by decide

/-- V57: the first fault is kept. -/
theorem test_pfData_faulted :
    issue (.pfData (List.replicate 65 0x00)) (faulted .invalidLength) =
      { faulted .invalidLength with responses := [.fault .invalidLength] } := by decide

/-! ### The step -/

/-- V53. -/
theorem test_step_reserved_command :
    step (asked (.request (.pfe 0x00000003 [])) (block 7)) =
      .next { block 7 with fault := some .invalidCommand, responses := [.fault .invalidCommand] } := rfl

/-- V58. -/
theorem test_step_reset :
    step (asked .reset (faulted .payloadTooLarge)) =
      .next { State.reset with lane := Config.laneAfterReset 1, resets := 2 } := rfl

/-- A table word presented after reset is what the first step runs. -/
theorem test_step_first_instruction :
    step (State.reset.withFetchWord 16 0x101) = exec (.csByte 0x01) State.reset ∧
      step (State.reset.withFetchWord 32 0) = exec .pfStart State.reset ∧
      step (State.reset.withFetchWord 32 1) = exec (.pfData []) State.reset := ⟨rfl, rfl, rfl⟩

/-! ### Frames read back, and the host -/

/-- P2's reader: a 4-byte frame, then one of 72 bytes, then a 4-byte one. -/
theorem test_cut_frames_lengths :
    (cutFrames ([0x00, 0x00, 0x00, 0x00] ++ ([0x01, 0x00, 0x00, 0x00, 0xF2, 0x01, 0x03, 0xFF] ++ List.replicate 64 0xFF) ++
      [0x02, 0x00, 0x00, 0x00])) =
      some [.ctrl 0, .data 0xFF0301F2 (List.replicate 64 0xFF), .ctrl 2] := by decide

/-- R49: bytes that end inside a frame are no frames. -/
theorem test_cut_frames_short : cutFrames [0x01, 0x00, 0x00, 0x00, 0x00] = none := by decide

/-- V61: the header's first twelve bytes. -/
theorem test_header_start :
    (headerBytes 8 0).take 12 = [0x00, 0x00, 0x00, 0x00, 0x01, 0x00, 0x00, 0x00, 0x08, 0x00, 0x00, 0x00] := rfl

/-- R10's sizes agree with each other. -/
theorem test_header_sizes : Config.host.hdrPadBytes = Config.host.headerSize - Config.host.hdrMetaBytes := rfl

/-- V63, V64, V65. -/
theorem test_chunks :
    (chunks (List.replicate 100 0x55)).map List.length = [64, 36] ∧
      (chunks (List.replicate 128 0x55)).map List.length = [64, 64] ∧ chunks [] = [] := by decide

/-- S12, V66, V67. -/
theorem test_acknowledgements :
    decodeAck [0xFF, 0xFF, 0xFF, 0xFF] = some (-1) ∧ decodeAck [0xFE, 0xFF, 0xFF, 0xFF] = some (-2) ∧
      decodeAck [0x01, 0x00, 0x00, 0x00] = some 1 ∧ decodeAck [0xFF, 0xFF, 0xFF, 0x7F] = some 0x7FFFFFFF ∧
      decodeAck [0xFF, 0xFF] = none := by decide

/-- U6, D21: a short read stops the host even where -1 is not checked. -/
theorem test_short_read_is_a_timeout : judgeReply false (.bytes [0xFF]) = some .ackTimeout := by decide

/-- R103. -/
theorem test_firmwareBlob : firmwareBlob 4 [0x01, 0x02] [0x09] = [0x01, 0x02, 0xFF, 0xFF, 0x09] := by decide

/-! ### Witnesses: states and operands that meet the statements' hypotheses -/

theorem witness_ResetEventRestoresTheResetValues :
    (asked .reset (faulted .payloadTooLarge)).requests = .reset :: [] := rfl

/-- For the statements of one operation: a clear block and a faulted one. -/
theorem witness_operations : (block 5).fault = none ∧ (faulted .invalidCommand).fault = some .invalidCommand := ⟨rfl, rfl⟩

theorem witness_CsByteAbsorbsOneByte :
    (midWord 2).fault = none ∧ (midWord 2).bcnt.toNat < 3 ∧ (midWord 3).fault = none ∧ (midWord 3).bcnt.toNat = 3 := by
  decide

theorem witness_CsFinishDeliversTheSum :
    (midWord 1).fault = none ∧ (midWord 1).bcnt.toNat ≠ 0 ∧ (block 5).bcnt.toNat = 0 := by decide

/-- `Holds` with nothing taken in, and with one byte. -/
theorem witness_holds :
    Holds State.reset [] ∧ State.reset.fault = none ∧
      Holds { State.reset with lane := #v[0x07, 0, 0, 0], bcnt := 1 } [0x07] :=
  ⟨⟨rfl, rfl, fun i _ hi => absurd hi (Nat.not_lt_zero i)⟩, rfl, rfl, rfl, fun i h hi => by
    obtain rfl : i = 0 := by simp at hi; omega
    rfl⟩

theorem witness_StepwiseChecksumAgreesWithTheFunction :
    (midWord 2).fault = none ∧ ([0x01, 0x02, 0x03, 0x04] : List Byte).length % 4 = 0 ∧
      ([0x01] : List Byte).length % 4 ≠ 0 := by decide

theorem witness_FourBytesAtAWordBoundaryAddOneWord : (block 5).fault = none ∧ (block 5).bcnt = 0 := by decide

theorem witness_checksums :
    ([0x01, 0x02, 0x03, 0x04] : List Byte).length = 4 * 1 ∧ ([0x01] : List Byte).length % 4 ≠ 0 ∧
      checksum [0x01, 0x02, 0x03, 0x04] = .ok (Config.seed + 0x04030201) ∧ checksum [] = .ok Config.seed :=
  ⟨rfl, by decide, (checksum_of_aligned rfl).trans (congrArg _ rfl), rfl⟩

theorem witness_ChecksumIgnoresTheOrderOfWords : List.Perm ([1, 2] : List Word) [2, 1] := List.Perm.swap 2 1 []

theorem witness_ChecksumDetectsEverySingleByteChange :
    3 < ([0x01, 0x02, 0x03, 0x04] : List Byte).length ∧ (0x05 : Byte) ≠ ([0x01, 0x02, 0x03, 0x04] : List Byte)[3] := by
  decide

theorem witness_PfDataEmitsItsFrameOrFaults :
    (block 5).fault = none ∧ 64 < (List.replicate 65 (0x00 : Byte)).length ∧
      (List.replicate 64 (0x00 : Byte)).length ≤ 64 := by decide

theorem witness_PacketOperationsAndChecksumEngineDoNotInteract :
    IsPf (.pfData [0x01]) = true ∧ SameOutsideCe (block 5) { block 9 with bcnt := 2 } := ⟨rfl, rfl⟩

theorem witness_WhichOperationsMayBeRepeated :
    (block 5).fault = none ∧ (block 5).bcnt = 0 ∧ IsPf .pfReset = true ∧ Instr.pfReset.wellFormed = true := by decide

theorem witness_requests :
    (asked (.request (.ce 0x101)) (block 5)).fault = none ∧
      (asked (.request (.ce 0x101)) (block 5)).requests = .request (.ce 0x101) :: [] := ⟨rfl, rfl⟩

/-- Each cause of `EachFaultHasExactlyItsCause`, and each clause of the reserved selectors at the edge of its range. -/
theorem witness_EachFaultHasExactlyItsCause :
    (asked (.request (.ce (2#2 ++ 0xFF#8))) (midWord 1)).requests = .request (.ce (2#2 ++ 0xFF#8)) :: [] ∧
      (midWord 1).bcnt.toNat ≠ 0 ∧ 64 < (List.replicate 65 (0x00 : Byte)).length ∧
      (0x00000003 : Word) ≠ 0x00000000 ∧ (0x00000003 : Word) ≠ 0x00000001 ∧ (0x00000003 : Word) ≠ 0x00000002 := by decide

theorem witness_RaisingAFaultChangesNothingElse :
    (asked (.request (.ce 0x200)) (midWord 1)).fault = none ∧
      step (asked (.request (.ce 0x200)) (midWord 1)) =
        .next { midWord 1 with fault := some .invalidLength, responses := [.fault .invalidLength] } := ⟨rfl, rfl⟩

theorem witness_AFaultedBlockRefusesEveryRequest :
    (asked (.request (.pfe 0xFFFFFFFF [])) (faulted .payloadTooLarge)).fault = some .payloadTooLarge ∧
      (asked (.request (.pfe 0xFFFFFFFF [])) (faulted .payloadTooLarge)).requests =
        .request (.pfe 0xFFFFFFFF []) :: [] := ⟨rfl, rfl⟩

theorem witness_AReservedSelectorRaisesInvalidCommand :
    (asked (.request (.ce (3#2 ++ 0x00#8))) (block 5)).fault = none ∧
      (asked (.request (.ce (3#2 ++ 0x00#8))) (block 5)).requests = .request (.ce (3#2 ++ 0x00#8)) :: [] ∧
      (asked (.request (.pfe 0x00000003 [])) (block 5)).requests = .request (.pfe 0x00000003 []) :: [] := ⟨rfl, rfl, rfl⟩

/-- Both clauses of `OnlyResetClearsAFault`: a request, and a reset. -/
theorem witness_OnlyResetClearsAFault :
    (∃ t, step (asked (.request (.ce 0x000)) (faulted .invalidLength)) = .next t) ∧
      ∃ t, step (asked .reset (faulted .invalidLength)) = .next t := ⟨⟨_, rfl⟩, ⟨_, rfl⟩⟩

theorem witness_StepRunsTheDecodedOperation :
    (asked (.request (.pfe 0x00000001 [0x01])) (block 5)).requests = .request (.pfe 0x00000001 [0x01]) :: [] ∧
      decode (.pfe 0x00000001 [0x01]) = .ok (.pfData [0x01]) := ⟨rfl, rfl⟩

theorem witness_APresentedTableWordIsRunNext : decodeTableWord 16 0x1FF = some (.csByte 0xFF) := by decide

theorem witness_PendingRequestsRunInOrder :
    ({ block 5 with requests := [.request (encode .csInit), .request (encode .pfStart), .reset] } : State).requests =
      [Instr.csInit, Instr.pfStart].map (fun i => .request (encode i)) ++ [.reset] := rfl

theorem witness_StaleLanesAreNeverObserved :
    SameButDeadLanes (midWord 1) { midWord 1 with lane := #v[0xA0, 0x11, 0x22, 0x33] } :=
  ⟨fun i _ hi => by
    obtain rfl : i = 0 := by simp [midWord] at hi; omega
    rfl, rfl⟩

theorem witness_EveryRequestIsOfExactlyItsRow :
    decode (.ce 0x2FF) = .ok .csFinish ∧ (⟨"CS.FINISH", 10, 0x200, 0x300⟩ : OpcodeRow) ∈ opcodeTable := by decide

theorem witness_EveryStepKeepsWholeFrames :
    WholeFrames (asked (.request (.pfe 0x00000002 [])) { block 5 with tx := [0x00, 0x00, 0x00, 0x00] }).tx ∧
      ∃ t, step (asked (.request (.pfe 0x00000002 [])) { block 5 with tx := [0x00, 0x00, 0x00, 0x00] }) = .next t :=
  ⟨⟨[.pfStart], by decide, rfl⟩, ⟨_, rfl⟩⟩

theorem witness_AReaderCutsTxIntoItsFrames :
    ∀ i ∈ [Instr.pfStart, .pfData (List.replicate 64 0x00), .pfData [], .csInit, .pfReset], i.wellFormed = true := by
  decide

theorem witness_DataFramesCarryTheirChecksumAndRoundTrip :
    (List.replicate 64 (0x01 : Byte)).length ≤ 64 ∧ (List.replicate 128 (0x01 : Byte)).length % 64 = 0 := by decide

/-- The largest size the header can hold, and one image of each kind. -/
theorem witness_headers :
    2 ^ 32 - 1 < 2 ^ 32 ∧ (block 5).fault = none ∧ 2 ^ 32 ≤ (List.replicate (2 ^ 32) (0x00 : Byte)).length ∧
      ([0x01, 0x02, 0x03, 0x04] : List Byte).length % 4 = 0 ∧
      ([0x01, 0x02, 0x03, 0x04, 0x05, 0x06] : List Byte).length % 4 ≠ 0 :=
  ⟨by decide, rfl, (List.length_replicate ..).ge, rfl, by decide⟩

/-- A session in the header stage that is about to be told -1. -/
def toldMinusOne (phase : Phase) (pending : List (List Byte)) : Session where
  phase := phase
  image := []
  pending := pending
  awaiting := false
  link := [.bytes [0xFF, 0xFF, 0xFF, 0xFF]]
  failure := none
  block := block 5

theorem witness_ANegativeAcknowledgementAbortsForGood :
    (toldMinusOne .sendingHeader [[0x01]]).phase = .sendingHeader ∧
      (toldMinusOne .sendingFirmware [[0x01]]).phase = .sendingFirmware ∧
      (toldMinusOne .sendingHeader [[0x01]]).pending = [0x01] :: [] ∧
      (toldMinusOne .sendingHeader [[0x01]]).awaiting = false ∧
      (toldMinusOne .sendingHeader [[0x01]]).block.fault = none ∧
      (toldMinusOne .sendingHeader [[0x01]]).link = .bytes [0xFF, 0xFF, 0xFF, 0xFF] :: [] := by decide

theorem witness_TheParametersDecideOnlyWhatMinusOneMeans :
    (toldMinusOne .idle []).phase = .idle ∧ (toldMinusOne .sendingFirmware []).phase = .sendingFirmware ∧
      (toldMinusOne .sendingFirmware []).pending = [] ∧ (toldMinusOne .sendingFirmware []).awaiting = false ∧
      (toldMinusOne .idle []).block.fault = none := by decide

/-- A session in the finishing state, its `RESET` sent, whose read fails: it is `aborted` from there (R95, C5). -/
def resetUnanswered : Session :=
  { toldMinusOne .finishing [] with
    awaiting := true
    link := [.failed]
    block := issue .pfReset (block 5) }

theorem witness_TheSequencerGoesThroughItsStatesInOrder :
    resetUnanswered.phase = .finishing ∧ resetUnanswered.awaiting = true ∧
      lastResponse resetUnanswered.block = some .ok ∧ resetUnanswered.link = .failed :: [] := by decide

/-- R95: `Finishing` ends in `Aborted` where the read fails, in `Done` where the acknowledgement comes. -/
theorem test_finishing_ends_both_ways :
    (resetUnanswered.step ⟨false, false⟩).phase = .aborted ∧
      (({ resetUnanswered with link := [.bytes [0x00, 0x00, 0x00, 0x00]] }.step ⟨true, true⟩).step ⟨true, true⟩).phase =
        .done := by decide

theorem witness_OneFrameForEachAcknowledgement :
    (toldMinusOne .idle []).awaiting = false ∧ resetUnanswered.awaiting = true ∧ resetUnanswered.phase ≠ .idle ∧
      ({ resetUnanswered with link := [.bytes [0x00, 0x00, 0x00, 0x00]] }.step ⟨true, true⟩).phase = .finishing := by decide

/-- Zero is an accepted acknowledgement. -/
theorem zero_accepted : Accepted (.bytes [0x00, 0x00, 0x00, 0x00]) := ⟨0, 0, 0, 0, rfl, by decide⟩

theorem witness_AMisalignedImageStopsAfterStart :
    (block 5).fault = none ∧ ([0x01, 0x00, 0x00, 0x00, 0x02, 0x00] : List Byte).length % 4 ≠ 0 ∧
      Accepted (.bytes [0x00, 0x00, 0x00, 0x00]) := ⟨rfl, by decide, zero_accepted⟩

/-- P6's image length of 100 bytes, with 68 acknowledgements of zero. -/
theorem witness_AnAcknowledgedTransferSendsTheWholeImage :
    (block 5).fault = none ∧ (List.replicate 100 (0x00 : Byte)).length % 4 = 0 ∧
      (∀ reply ∈ List.replicate 68 (LinkReply.bytes [0x00, 0x00, 0x00, 0x00]), Accepted reply) ∧
      (List.replicate 68 (LinkReply.bytes [0x00, 0x00, 0x00, 0x00])).length =
        1 + 64 + ((List.replicate 100 (0x00 : Byte)).length + 63) / 64 + 1 :=
  ⟨rfl, by decide, fun _ h => List.eq_of_mem_replicate h ▸ zero_accepted, by decide⟩

end Sys2Proof.Tests
end

section
/-! PROOFS. Family 10_state: states that differ only in dead lanes (R17) stay so under every operation, and what the
reset leaves (R27). -/

namespace Sys2Proof.Proofs

open Sys2Proof.Machine Sys2Proof.Safety Sys2Proof.Laws

/-! ### States that differ only in dead lanes (R17) -/

/-- Where no byte of the current word has arrived, all four lanes are dead. -/
theorem sameButDeadLanes_of_bcnt_zero {s : State} (lane : Vector Byte 4) (h : s.bcnt = 0) :
    SameButDeadLanes s { s with lane := lane } :=
  ⟨fun i _ hi => absurd hi (by simp [h]), rfl⟩

section
variable {s t : State} (h : SameButDeadLanes s t)
include h

theorem acc_eq_of_sameButDeadLanes : t.acc = s.acc := by rw [h.2]

theorem bcnt_eq_of_sameButDeadLanes : t.bcnt = s.bcnt := by rw [h.2]

theorem fault_eq_of_sameButDeadLanes : t.fault = s.fault := by rw [h.2]

theorem tx_eq_of_sameButDeadLanes : t.tx = s.tx := by rw [h.2]

theorem responses_eq_of_sameButDeadLanes : t.responses = s.responses := by rw [h.2]

/-! Each named update of the state keeps the relation. -/

theorem sameButDeadLanes_respond (r : Response) : SameButDeadLanes (respond r s) (respond r t) :=
  ⟨h.1, congrArg (respond r) h.2⟩

theorem sameButDeadLanes_emit (bs : List Byte) : SameButDeadLanes (emit bs s) (emit bs t) :=
  ⟨h.1, congrArg (emit bs) h.2⟩

theorem sameButDeadLanes_raise (f : BlockFault) : SameButDeadLanes (raise f s) (raise f t) :=
  ⟨h.1, congrArg (raise f) h.2⟩

theorem sameButDeadLanes_startSum : SameButDeadLanes (startSum s) (startSum t) :=
  ⟨fun i _ hi => absurd hi (Nat.not_lt_zero i), congrArg startSum h.2⟩

/-- A completed word reads its three earlier bytes from live lanes; a partial one adds the byte just written to the live
lanes (R65). -/
theorem sameButDeadLanes_absorb (b : Byte) : SameButDeadLanes (absorb b s) (absorb b t) := by
  obtain ⟨hlive, ht⟩ := h
  rw [ht]
  by_cases hb : s.bcnt = 3
  · have hlane (i : Nat) (hi : i < 3) : s.lane[i] = t.lane[i] := hlive i (by omega) (by simpa [hb] using hi)
    rw [absorb_complete b hb, absorb_complete (s := { s with lane := t.lane }) b hb,
      hlane 0 (by decide), hlane 1 (by decide), hlane 2 (by decide)]
    exact sameButDeadLanes_of_bcnt_zero _ rfl
  · rw [absorb_partial b hb, absorb_partial (s := { s with lane := t.lane }) b hb]
    refine ⟨fun i hi hlt => ?_, rfl⟩
    have hnext : (s.bcnt + 1).toNat = s.bcnt.toNat + 1 := by bv_omega
    by_cases hi' : i = s.bcnt.toNat
    · subst hi'
      simp
    · have hold : i < s.bcnt.toNat := by
        have hlt' : i < (s.bcnt + 1).toNat := hlt
        omega
      simpa [Vector.getElem_set, Ne.symm hi'] using hlive i hi hold

/-- No operation observes a dead lane or brings one back to life unwritten (R17). -/
theorem sameButDeadLanes_issue (i : Instr) : SameButDeadLanes (issue i s) (issue i t) := by
  cases hs : s.fault with
  | some f =>
    rw [issue_of_faulted hs, issue_of_faulted ((fault_eq_of_sameButDeadLanes h).trans hs)]
    exact sameButDeadLanes_respond h _
  | none =>
    have ht : t.fault = none := (fault_eq_of_sameButDeadLanes h).trans hs
    cases i with
    | csInit =>
      rw [issue_csInit hs, issue_csInit ht]
      exact sameButDeadLanes_respond (sameButDeadLanes_startSum h) _
    | csByte b =>
      rw [issue_csByte hs, issue_csByte ht]
      exact sameButDeadLanes_respond (sameButDeadLanes_absorb h b) _
    | csFinish =>
      by_cases hb : s.bcnt = 0
      · rw [issue_csFinish_aligned hs hb, issue_csFinish_aligned ht ((bcnt_eq_of_sameButDeadLanes h).trans hb),
          acc_eq_of_sameButDeadLanes h]
        exact sameButDeadLanes_respond h _
      · rw [issue_csFinish_misaligned hs hb, issue_csFinish_misaligned ht (bcnt_eq_of_sameButDeadLanes h ▸ hb)]
        exact sameButDeadLanes_raise h _
    | pfStart =>
      rw [issue_pfStart hs, issue_pfStart ht]
      exact sameButDeadLanes_respond (sameButDeadLanes_emit h _) _
    | pfData p =>
      by_cases hp : p.length ≤ 64
      · rw [issue_pfData hs hp, issue_pfData ht hp]
        exact sameButDeadLanes_respond (sameButDeadLanes_emit h _) _
      · rw [issue_pfData_oversize hs (by omega), issue_pfData_oversize ht (by omega)]
        exact sameButDeadLanes_raise h _
    | pfReset =>
      rw [issue_pfReset hs, issue_pfReset ht]
      exact sameButDeadLanes_respond (sameButDeadLanes_emit h _) _

end

theorem sameButDeadLanes_issueAll (ops : List Instr) {s t : State} (h : SameButDeadLanes s t) :
    SameButDeadLanes (issueAll ops s) (issueAll ops t) := by
  induction ops generalizing s t with
  | nil => exact h
  | cons i ops ih => exact ih (sameButDeadLanes_issue h i)

/-! ### The state after reset (R27) -/

theorem exec_csInit_reset :
    exec .csInit State.reset = .next { State.reset with responses := State.reset.responses ++ [.ok] } := by
  rw [exec_eq_issue, issue_csInit rfl]
  rfl

/-- Settles O1: after reset `BCNT` is 0, so all lanes are dead, and every list of operations keeps them unobserved. -/
theorem resetLeavesTheStartOfAChecksum : Obligations.ResetLeavesTheStartOfAChecksum := by
  refine ⟨rfl, rfl, rfl, rfl, exec_csInit_reset, fun lane ops => ?_⟩
  have h := sameButDeadLanes_issueAll ops (sameButDeadLanes_of_bcnt_zero lane (s := State.reset) rfl)
  exact ⟨responses_eq_of_sameButDeadLanes h, tx_eq_of_sameButDeadLanes h, fault_eq_of_sameButDeadLanes h⟩

end Sys2Proof.Proofs
end

section
/-! PROOFS. Family 30_encoding: the reserved selectors (R54, R55) raise `InvalidCommand` (R110). -/

namespace Sys2Proof.Proofs

open Sys2Proof.Machine Sys2Proof.Laws

/-! ### Which requests are reserved -/

/-- R54: selector 3 selects no CE operation, whatever the data. -/
theorem decode_ce_reserved (d : Byte) : decode (.ce (3#2 ++ d)) = .error .reservedCeOp := by
  simp [decode, decodeCe]

/-- R55: a command identifier outside the three of R8 selects no PFE operation, whatever the payload. -/
theorem decode_pfe_reserved {c : Word} (p : List Byte) (hstart : c ≠ 0) (hdata : c ≠ 1) (hreset : c ≠ 2) :
    decode (.pfe c p) = .error (.reservedPfCmd c) :=
  (if_neg hstart).trans ((if_neg hdata).trans (if_neg hreset))

/-! ### Serving a request -/

/-- A step with a request pending takes it off the port and serves it (R13). -/
theorem step_of_request {s : State} {r : Request} {rest : List HostEvent} (h : s.requests = .request r :: rest) :
    step s = serve r (setRequests rest s) := by
  simp only [step, takeNext, h, handle]

/-- A clear block answers a request that selects no operation by raising `InvalidCommand` (R110). -/
theorem serve_of_decode_error {r : Request} {e : DecodeError} {s : State} (hr : decode r = .error e)
    (hs : s.fault = none) : serve r s = .next (raise .invalidCommand s) := by
  simp only [serve, hr, whenClear_of_clear _ hs]

/-- R106 and R110 over one step: any reserved request on a clear block. -/
theorem step_of_decode_error {s : State} {r : Request} {e : DecodeError} {rest : List HostEvent}
    (hs : s.fault = none) (hr : decode r = .error e) (hq : s.requests = .request r :: rest) :
    step s = .next (raise .invalidCommand (setRequests rest s)) :=
  (step_of_request hq).trans (serve_of_decode_error hr hs)

/-- Settles O23: both kinds of reserved request fail to decode, and a step answers either by raising `InvalidCommand`. -/
theorem aReservedSelectorRaisesInvalidCommand : Obligations.AReservedSelectorRaisesInvalidCommand := by
  intro s rest hs
  constructor
  · intro d hq
    exact step_of_decode_error hs (decode_ce_reserved d) hq
  · intro c p hstart hdata hreset hq
    exact step_of_decode_error hs (decode_pfe_reserved p hstart hdata hreset) hq

end Sys2Proof.Proofs
end

section
/-! PROOFS. Family 40_checksum_engine: what `CS.INIT`, `CS.BYTE` and `CS.FINISH` do (R64 to R66), and the closed form of
the function `CHECKSUM` (R67). -/

namespace Sys2Proof.Proofs

open Sys2Proof.Machine Sys2Proof.Safety Sys2Proof.Laws

/-! ### Which requests select a CE operation (R52) -/

theorem decode_csInit (d : Byte) : decode (.ce (0#2 ++ d)) = .ok .csInit := by
  simp [decode, decodeCe]

theorem decode_csByte (b : Byte) : decode (.ce (1#2 ++ b)) = .ok (.csByte b) := by
  simp [decode, decodeCe]

theorem decode_csFinish (d : Byte) : decode (.ce (2#2 ++ d)) = .ok .csFinish := by
  simp [decode, decodeCe]

/-! ### `exec` of each CE operation -/

/-- R107: a faulted block answers every operation with its standing fault. -/
theorem exec_of_faulted (i : Instr) {s : State} {f : BlockFault} (h : s.fault = some f) :
    exec i s = .next (respond (.fault f) s) := by
  rw [exec_eq_issue, issue_of_faulted h]

theorem exec_csInit {s : State} (h : s.fault = none) : exec .csInit s = .next (respond .ok (startSum s)) := by
  rw [exec_eq_issue, issue_csInit h]

theorem exec_csByte (b : Byte) {s : State} (h : s.fault = none) :
    exec (.csByte b) s = .next (respond .ok (absorb b s)) := by
  rw [exec_eq_issue, issue_csByte h]

/-- R66 at a word boundary, which is where `BCNT` counts no byte. -/
theorem exec_csFinish_aligned {s : State} (h : s.fault = none) (hb : s.bcnt.toNat = 0) :
    exec .csFinish s = .next (respond (.okWord s.acc) s) := by
  rw [exec_eq_issue, issue_csFinish_aligned h (BitVec.eq_of_toNat_eq hb)]

/-- R66 inside a word. -/
theorem exec_csFinish_misaligned {s : State} (h : s.fault = none) (hb : s.bcnt.toNat ≠ 0) :
    exec .csFinish s = .next (raise .invalidLength s) := by
  rw [exec_eq_issue, issue_csFinish_misaligned h (BitVec.toNat_ne_iff_ne.mp hb)]

/-! ### Absorbing a byte (R65) -/

/-- The registers that `absorb` may write are `ACC`, `LANE` and `BCNT`. -/
theorem absorb_frame (b : Byte) (s : State) :
    absorb b s = { s with acc := (absorb b s).acc, lane := (absorb b s).lane, bcnt := (absorb b s).bcnt } := by
  by_cases hb : s.bcnt = 3
  · rw [absorb_complete b hb]
  · rw [absorb_partial b hb]

/-- The byte goes to `LANE[BCNT]`, whether or not it completes a word. -/
theorem absorb_lane (b : Byte) (s : State) : (absorb b s).lane = s.lane.set s.bcnt.toNat b s.bcnt.isLt := by
  by_cases hb : s.bcnt = 3
  · simp [absorb_complete b hb, hb]
  · rw [absorb_partial b hb]

theorem absorb_lane_getElem (b : Byte) (s : State) (i : Nat) (h : i < 4) :
    (absorb b s).lane[i] = if i = s.bcnt.toNat then b else s.lane[i] := by
  simp only [absorb_lane, Vector.getElem_set, eq_comm]

/-- A byte that does not complete a word is counted and not yet added. -/
theorem absorb_partial_acc_bcnt (b : Byte) {s : State} (h : s.bcnt.toNat < 3) :
    (absorb b s).acc = s.acc ∧ (absorb b s).bcnt.toNat = s.bcnt.toNat + 1 := by
  have hne : s.bcnt ≠ 3 := by bv_omega
  rw [absorb_partial b hne]
  exact ⟨rfl, show (s.bcnt + 1).toNat = _ by bv_omega⟩

/-- The byte that completes a word has the word added, modulo 2^32, and `BCNT` goes back to 0. -/
theorem absorb_complete_acc_bcnt (b : Byte) {s : State} (h : s.bcnt.toNat = 3) :
    (absorb b s).acc.toNat =
        (s.acc.toNat + (s.lane[0].toNat + 2 ^ 8 * s.lane[1].toNat + 2 ^ 16 * s.lane[2].toNat +
          2 ^ 24 * b.toNat)) % 2 ^ 32 ∧
      (absorb b s).bcnt.toNat = 0 := by
  rw [absorb_complete b (BitVec.eq_of_toNat_eq h)]
  exact ⟨by rw [BitVec.toNat_add, wordOfBytes_toNat], rfl⟩

/-! ### The closed form of `CHECKSUM` (R67) -/

theorem wordValue_cons_zero (b0 b1 b2 b3 : Byte) (rest : List Byte) :
    wordValue (b0 :: b1 :: b2 :: b3 :: rest) 0 = (wordOfBytes b0 b1 b2 b3).toNat := by
  rw [wordOfBytes_toNat]
  rfl

/-- Word `k + 1` of a sequence is word `k` of what follows its first word. -/
theorem wordValue_cons_succ (b0 b1 b2 b3 : Byte) (rest : List Byte) (k : Nat) :
    wordValue (b0 :: b1 :: b2 :: b3 :: rest) (k + 1) = wordValue rest k := rfl

/-- The running sum over `m` words, from any start value, is the modular sum of their values. -/
theorem sumWords_toNat {s : List Byte} {m : Nat} (h : s.length = 4 * m) (acc : Word) :
    (sumWords acc s).toNat = (acc.toNat + ∑ k ∈ Finset.range m, wordValue s k) % 2 ^ 32 := by
  induction s using bytes_induction generalizing acc m with
  | short s hs =>
    obtain rfl : m = 0 := by omega
    rw [sumWords_of_short acc hs, Finset.sum_range_zero, Nat.add_zero, Nat.mod_eq_of_lt acc.isLt]
  | word b0 b1 b2 b3 rest ih =>
    cases m with
    | zero => simp at h
    | succ n =>
      have hrest : rest.length = 4 * n := by simp at h; omega
      rw [sumWords_cons, ih hrest, Finset.sum_range_succ', wordValue_cons_zero, BitVec.toNat_add, Nat.mod_add_mod]
      simp only [wordValue_cons_succ, Nat.add_assoc, Nat.add_comm (wordOfBytes b0 b1 b2 b3).toNat]

/-! ### The obligations -/

/-- Settles O4: absorbing a byte writes `LANE[BCNT]`, and completes a word or not as `BCNT` is 3 or below. -/
theorem csByteAbsorbsOneByte : Obligations.CsByteAbsorbsOneByte := by
  refine ⟨decode_csByte, fun b s => ⟨fun f hf => exec_of_faulted _ hf, fun hs => ?_⟩⟩
  exact ⟨respond .ok (absorb b s), exec_csByte b hs, congrArg (respond .ok) (absorb_frame b s),
    absorb_lane_getElem b s, absorb_partial_acc_bcnt b, absorb_complete_acc_bcnt b⟩

/-- Settles O5: `BCNT` decides between the sum and the fault, and where the registers hold an input it is the input's
length modulo 4 and `ACC` is the input's sum. -/
theorem csFinishDeliversTheSum : Obligations.CsFinishDeliversTheSum := by
  refine ⟨decode_csFinish, fun s => ⟨fun f hf => exec_of_faulted _ hf, exec_csFinish_misaligned,
    exec_csFinish_aligned, fun input hinput hs => ?_⟩⟩
  obtain ⟨hacc, hbcnt, -⟩ := hinput
  constructor
  · intro hlen
    exact exec_csFinish_misaligned hs (hbcnt ▸ hlen)
  · intro hlen
    exact ⟨s.acc, hacc ▸ checksum_of_aligned hlen, exec_csFinish_aligned hs (hbcnt.trans hlen)⟩

/-- Settles O9: the error is the misaligned case of `checksum`, the word the running sum from `SEED`. -/
theorem checksumIsTheModularSumOfTheWords : Obligations.ChecksumIsTheModularSumOfTheWords := by
  refine fun s => ⟨checksum_of_misaligned, fun m hm => ?_⟩
  exact ⟨sumWords Config.seed s, checksum_of_aligned (by omega), sumWords_toNat hm Config.seed⟩

/-- Settles O3: a clear block starts a new sum, a faulted one answers its fault. -/
theorem csInitStartsANewSum : Obligations.CsInitStartsANewSum :=
  ⟨decode_csInit, fun _ => ⟨fun _ hf => exec_of_faulted _ hf, exec_csInit⟩⟩

end Sys2Proof.Proofs
end

section
/-! PROOFS. Family 41_packet_frame_encoder: what `PF.START`, `PF.DATA` and `PF.RESET` do (R78 to R80), and that they and
the checksum engine do not touch each other (R82). -/

namespace Sys2Proof.Proofs

open Sys2Proof.Machine Sys2Proof.Safety Sys2Proof.Laws

/-! ### Which requests select a PF operation (R53) -/

theorem decode_pfStart (p : List Byte) : decode (.pfe 0x00000000 p) = .ok .pfStart := rfl

theorem decode_pfData (p : List Byte) : decode (.pfe 0x00000001 p) = .ok (.pfData p) := rfl

theorem decode_pfReset (p : List Byte) : decode (.pfe 0x00000002 p) = .ok .pfReset := rfl

/-! ### What any PF operation does on a clear block -/

/-- With a legal operand it emits its frame and answers `ok` (R77). -/
theorem issue_pf_wellFormed {i : Instr} {s : State} (hi : IsPf i = true) (h : s.fault = none)
    (hw : i.wellFormed = true) : issue i s = respond .ok (emit (frame i) s) := by
  cases i with
  | csInit | csByte _ | csFinish => cases hi
  | pfStart => exact issue_pfStart h
  | pfData p => exact issue_pfData h (wellFormed_pfData.mp hw)
  | pfReset => exact issue_pfReset h

/-- The one operand that can be illegal is an oversize payload (R57), which raises `PayloadTooLarge` (R109). -/
theorem issue_of_not_wellFormed {i : Instr} {s : State} (h : s.fault = none) (hw : ¬ i.wellFormed = true) :
    issue i s = raise .payloadTooLarge s := by
  cases i with
  | csInit | csByte _ | csFinish | pfStart | pfReset => exact absurd rfl hw
  | pfData p => exact issue_pfData_oversize h (not_le.mp (mt wellFormed_pfData.mpr hw))

/-! ### The frames with their bytes written out (R46, R47) -/

theorem frame_pfStart : frame .pfStart = [0x00, 0x00, 0x00, 0x00] := rfl

theorem frame_pfReset : frame .pfReset = [0x02, 0x00, 0x00, 0x00] := rfl

/-- R47, R51: the checksum field holds the bytes of its word's value, least first. -/
theorem frame_pfData (p : List Byte) {cs : Nat} (hcs : cs = (payloadChecksum p).toNat) :
    frame (.pfData p) = [0x01, 0x00, 0x00, 0x00] ++
      [BitVec.ofNat 8 cs, BitVec.ofNat 8 (cs / 2 ^ 8), BitVec.ofNat 8 (cs / 2 ^ 16), BitVec.ofNat 8 (cs / 2 ^ 24)] ++
      (p ++ List.replicate (64 - p.length) 0xFF) := by
  rw [hcs, ← bytesOfWord_eq_ofNat]
  exact dataFrame_eq p

/-- R51: the padded payload is sixteen words, and the checksum field is their modular sum from `SEED`. -/
theorem payloadChecksum_toNat {p : List Byte} (h : p.length ≤ 64) :
    (payloadChecksum p).toNat =
      (Config.seed.toNat + ∑ k ∈ Finset.range 16, wordValue (padPayload p) k) % 2 ^ 32 :=
  sumWords_toNat (padPayload_length h) Config.seed

/-! ### The checksum engine's registers seen from a PF operation (R82) -/

/-- Put other values into the checksum engine's registers. -/
def setCe (acc : Word) (lane : Vector Byte 4) (bcnt : BitVec 2) (s : State) : State :=
  { s with acc := acc, lane := lane, bcnt := bcnt }

section
variable (acc : Word) (lane : Vector Byte 4) (bcnt : BitVec 2) (s : State)

@[simp] theorem setCe_acc : (setCe acc lane bcnt s).acc = acc := rfl
@[simp] theorem setCe_lane : (setCe acc lane bcnt s).lane = lane := rfl
@[simp] theorem setCe_bcnt : (setCe acc lane bcnt s).bcnt = bcnt := rfl
@[simp] theorem setCe_fault : (setCe acc lane bcnt s).fault = s.fault := rfl

end

/-- A PF operation takes the same course whatever the checksum engine's registers hold, and carries them along. -/
theorem issue_pf_setCe {i : Instr} (hi : IsPf i = true) (acc : Word) (lane : Vector Byte 4) (bcnt : BitVec 2)
    (s : State) : issue i (setCe acc lane bcnt s) = setCe acc lane bcnt (issue i s) := by
  cases h : s.fault with
  | some f =>
    rw [issue_of_faulted h, issue_of_faulted ((setCe_fault ..).trans h)]
    rfl
  | none =>
    have h' : (setCe acc lane bcnt s).fault = none := (setCe_fault ..).trans h
    by_cases hw : i.wellFormed = true
    · rw [issue_pf_wellFormed hi h hw, issue_pf_wellFormed hi h' hw]
      rfl
    · rw [issue_of_not_wellFormed h hw, issue_of_not_wellFormed h' hw]
      rfl

/-- Putting back what the registers hold changes nothing, so a PF operation leaves them as they were. -/
theorem issue_pf_keeps_ce {i : Instr} (hi : IsPf i = true) (s : State) :
    issue i s = setCe s.acc s.lane s.bcnt (issue i s) :=
  issue_pf_setCe hi s.acc s.lane s.bcnt s

theorem issue_pf_acc {i : Instr} (hi : IsPf i = true) (s : State) : (issue i s).acc = s.acc :=
  (congrArg State.acc (issue_pf_keeps_ce hi s)).trans (setCe_acc ..)

theorem issue_pf_lane {i : Instr} (hi : IsPf i = true) (s : State) : (issue i s).lane = s.lane :=
  (congrArg State.lane (issue_pf_keeps_ce hi s)).trans (setCe_lane ..)

theorem issue_pf_bcnt {i : Instr} (hi : IsPf i = true) (s : State) : (issue i s).bcnt = s.bcnt :=
  (congrArg State.bcnt (issue_pf_keeps_ce hi s)).trans (setCe_bcnt ..)

theorem sameOutsideCe_iff {s t : State} : SameOutsideCe s t ↔ t = setCe t.acc t.lane t.bcnt s := Iff.rfl

/-- A PF operation keeps two blocks that differ in the checksum engine alone so. -/
theorem sameOutsideCe_issue_pf {i : Instr} (hi : IsPf i = true) {s t : State} (h : SameOutsideCe s t) :
    SameOutsideCe (issue i s) (issue i t) := by
  rw [sameOutsideCe_iff, issue_pf_acc hi, issue_pf_lane hi, issue_pf_bcnt hi, ← issue_pf_setCe hi]
  exact congrArg (issue i) (sameOutsideCe_iff.mp h)

/-! ### The obligations -/

/-- Settles O15: on a clear block the length of the payload decides between the frame, whose checksum field is the modular
sum of the padded payload's sixteen words, and the fault. -/
theorem pfDataEmitsItsFrameOrFaults : Obligations.PfDataEmitsItsFrameOrFaults := by
  refine ⟨decode_pfData, fun p s => ⟨fun f hf => exec_of_faulted _ hf, fun hs hp => ?_, fun hs hp => ?_⟩⟩
  · rw [exec_eq_issue, issue_pfData_oversize hs hp]
    rfl
  · refine ⟨_, rfl, ?_⟩
    rw [exec_eq_issue, issue_pfData hs hp, frame_pfData p (payloadChecksum_toNat hp).symm]
    rfl

/-- Settles O16: a PF operation commutes with putting other values into the checksum engine's registers. -/
theorem packetOperationsAndChecksumEngineDoNotInteract :
    Obligations.PacketOperationsAndChecksumEngineDoNotInteract := fun i s s' hi h =>
  ⟨issue i s, issue i s', exec_eq_issue i s, exec_eq_issue i s', sameOutsideCe_issue_pf hi h,
    issue_pf_acc hi s, issue_pf_lane hi s, issue_pf_bcnt hi s,
    issue_pf_acc hi s', issue_pf_lane hi s', issue_pf_bcnt hi s'⟩

/-- Settles O13: a clear block emits the `START` frame, a faulted one answers its fault. -/
theorem pfStartEmitsFourZeroBytes : Obligations.PfStartEmitsFourZeroBytes := by
  refine ⟨decode_pfStart, fun s => ⟨fun f hf => exec_of_faulted _ hf, fun hs => ?_⟩⟩
  rw [exec_eq_issue, issue_pfStart hs, frame_pfStart]
  rfl

/-- Settles O14: a clear block emits the `RESET` frame and keeps its registers, a faulted one keeps its fault too. -/
theorem pfResetEmitsItsCommandAndResetsNothing : Obligations.PfResetEmitsItsCommandAndResetsNothing := by
  refine ⟨decode_pfReset, fun s => ⟨fun f hf => exec_of_faulted _ hf, fun hs => ?_⟩⟩
  rw [exec_eq_issue, issue_pfReset hs, frame_pfReset]
  rfl

end Sys2Proof.Proofs
end

section
/-! PROOFS. Family 42_host_usage: the host cuts a byte sequence into consecutive chunks of 64 bytes (R92). -/

namespace Sys2Proof.Proofs

open Sys2Proof.Machine

/-! ### The fuel of the chunking does not show -/

theorem chunksFuel_nil (fuel : Nat) : chunksFuel fuel [] = [] := by
  cases fuel <;> rfl

theorem chunksFuel_succ (fuel : Nat) {bs : List Byte} (h : bs ≠ []) :
    chunksFuel (fuel + 1) bs = bs.take 64 :: chunksFuel fuel (bs.drop 64) := by
  cases bs with
  | nil => exact absurd rfl h
  | cons b bs => rfl

/-- Every chunk takes at least one byte, so two fuels that both reach the length cut alike. -/
theorem chunksFuel_congr {m n : Nat} {bs : List Byte} (hm : bs.length ≤ m) (hn : bs.length ≤ n) :
    chunksFuel m bs = chunksFuel n bs := by
  induction m generalizing n bs with
  | zero => rw [List.length_eq_zero_iff.mp (Nat.le_zero.mp hm), chunksFuel_nil, chunksFuel_nil]
  | succ m ih =>
    by_cases h : bs = []
    · rw [h, chunksFuel_nil, chunksFuel_nil]
    · have hpos := List.length_pos_of_ne_nil h
      have hdrop : (bs.drop 64).length = bs.length - 64 := List.length_drop
      cases n with
      | zero => omega
      | succ n => rw [chunksFuel_succ m h, chunksFuel_succ n h, ih (n := n) (by omega) (by omega)]

/-! ### What the chunks are (R92) -/

theorem chunks_of_ne_nil {bs : List Byte} (h : bs ≠ []) : chunks bs = bs.take 64 :: chunks (bs.drop 64) := by
  have hpos := List.length_pos_of_ne_nil h
  have hdrop : (bs.drop 64).length = bs.length - 64 := List.length_drop
  calc chunks bs = chunksFuel (bs.length + 1) bs := chunksFuel_congr le_rfl (Nat.le_succ _)
    _ = bs.take 64 :: chunksFuel bs.length (bs.drop 64) := chunksFuel_succ _ h
    _ = bs.take 64 :: chunks (bs.drop 64) := congrArg _ (chunksFuel_congr (by omega) le_rfl)

/-- Induction along the cuts: nothing, or a first chunk before what is left. -/
theorem chunks_induction {motive : List Byte → Prop} (nil : motive [])
    (cut : ∀ bs, bs ≠ [] → motive (bs.drop 64) → motive bs) (bs : List Byte) : motive bs := by
  by_cases h : bs = []
  · exact h ▸ nil
  · exact cut bs h (chunks_induction nil cut (bs.drop 64))
termination_by bs.length
decreasing_by
  have := List.length_pos_of_ne_nil h
  rw [List.length_drop]
  omega

theorem length_chunks (bs : List Byte) : (chunks bs).length = (bs.length + 63) / 64 := by
  induction bs using chunks_induction with
  | nil => rfl
  | cut bs h ih =>
    have hpos := List.length_pos_of_ne_nil h
    rw [chunks_of_ne_nil h, List.length_cons, ih, List.length_drop]
    omega

theorem flatten_chunks (bs : List Byte) : (chunks bs).flatten = bs := by
  induction bs using chunks_induction with
  | nil => rfl
  | cut bs h ih => rw [chunks_of_ne_nil h, List.flatten_cons, ih, List.take_append_drop]

/-- Chunk `i` is the bytes from `64 * i` on, 64 of them or all that are left. -/
theorem chunks_getElem? {bs : List Byte} {i : Nat} (hi : i < (chunks bs).length) :
    (chunks bs)[i]? = some ((bs.drop (64 * i)).take 64) := by
  induction bs using chunks_induction generalizing i with
  | nil => exact absurd hi (Nat.not_lt_zero i)
  | cut bs h ih =>
    rw [chunks_of_ne_nil h] at hi ⊢
    cases i with
    | zero => rfl
    | succ i =>
      rw [List.getElem?_cons_succ, ih (Nat.lt_of_succ_lt_succ hi), List.drop_drop, Nat.mul_succ, Nat.add_comm]

theorem length_of_chunks_getElem? {bs c : List Byte} {i : Nat} (h : (chunks bs)[i]? = some c) :
    i < (chunks bs).length ∧ c.length = min 64 (bs.length - 64 * i) := by
  obtain ⟨hi, -⟩ := List.getElem?_eq_some_iff.mp h
  obtain rfl : c = (bs.drop (64 * i)).take 64 := Option.some.inj (h.symm.trans (chunks_getElem? hi))
  exact ⟨hi, by rw [List.length_take, List.length_drop]⟩

/-- Settles O41: count, concatenation and content by induction along the cuts; a chunk's length is what is left at its
start, and the count says that this is at least 1, and at least 64 before another chunk. -/
theorem chunksAreConsecutiveAndFull : Obligations.ChunksAreConsecutiveAndFull := fun bs => by
  have hcount := length_chunks bs
  refine ⟨hcount, flatten_chunks bs, fun i hi => chunks_getElem? (hcount ▸ hi), fun i c hc => ?_⟩
  obtain ⟨hi, hlen⟩ := length_of_chunks_getElem? hc
  refine ⟨?_, ?_, fun hnext => ?_⟩ <;> omega

end Sys2Proof.Proofs
end

section
/-! PROOFS. Family 60_exceptions: raising a fault latches and answers it and changes nothing else (R106), and a faulted
block refuses every request (R107). -/

namespace Sys2Proof.Proofs

open Sys2Proof.Machine Sys2Proof.Laws

/-! ### Raising a fault (R106) -/

/-- An operation on a clear block leaves it clear, or it does nothing but raise a fault. -/
theorem issue_fault_none_or_eq_raise (i : Instr) {s : State} (h : s.fault = none) :
    (issue i s).fault = none ∨ ∃ f, issue i s = raise f s := by
  cases i with
  | csInit => exact .inl (by rw [issue_csInit h]; exact h)
  | csByte b => exact .inl (by rw [issue_csByte h, respond_fault, absorb_fault, h])
  | csFinish =>
    by_cases hb : s.bcnt = 0
    · exact .inl (by rw [issue_csFinish_aligned h hb]; exact h)
    · exact .inr ⟨_, issue_csFinish_misaligned h hb⟩
  | pfStart => exact .inl (by rw [issue_pfStart h]; exact h)
  | pfData p =>
    by_cases hp : p.length ≤ 64
    · exact .inl (by rw [issue_pfData h hp]; exact h)
    · exact .inr ⟨_, issue_pfData_oversize h (not_le.mp hp)⟩
  | pfReset => exact .inl (by rw [issue_pfReset h]; exact h)

/-- The same over requests: a reserved one always raises. -/
theorem serve_fault_none_or_eq_raise (r : Request) {s : State} (h : s.fault = none) :
    (∃ t, serve r s = .next t ∧ t.fault = none) ∨ ∃ f, serve r s = .next (raise f s) := by
  obtain ⟨i, -, hserve⟩ | ⟨e, hr, -⟩ := serve_cases r s
  · obtain hclear | ⟨f, hraise⟩ := issue_fault_none_or_eq_raise i h
    · exact .inl ⟨issue i s, hserve, hclear⟩
    · exact .inr ⟨f, hraise ▸ hserve⟩
  · exact .inr ⟨.invalidCommand, serve_of_decode_error hr h⟩

/-- A fault that stands once a clear block has served a request was raised by it. -/
theorem eq_raise_of_serve {r : Request} {s t : State} {f : BlockFault} (hs : s.fault = none)
    (hserve : serve r s = .next t) (hf : t.fault = some f) : t = raise f s := by
  obtain ⟨u, hu, hclear⟩ | ⟨g, hg⟩ := serve_fault_none_or_eq_raise r hs
  · obtain rfl : t = u := Host.Outcome.next.inj (hserve.symm.trans hu)
    cases hclear.symm.trans hf
  · obtain rfl : t = raise g s := Host.Outcome.next.inj (hserve.symm.trans hg)
    obtain rfl : g = f := Option.some.inj hf
    rfl

/-- Settles O20: the step serves the request, and the fault that stands afterwards is the one it raised. -/
theorem raisingAFaultChangesNothingElse : Obligations.RaisingAFaultChangesNothingElse := by
  intro s t r rest f hs hq hstep hf
  exact eq_raise_of_serve (s := setRequests rest s) hs ((step_of_request hq).symm.trans hstep) hf

/-! ### A faulted block (R107, R111) -/

/-- The standing fault answers a request that selects an operation and a reserved one alike. -/
theorem serve_of_faulted (r : Request) {s : State} {f : BlockFault} (h : s.fault = some f) :
    serve r s = .next (respond (.fault f) s) := by
  obtain ⟨i, -, hserve⟩ | ⟨e, -, hserve⟩ := serve_cases r s
  · rw [hserve, issue_of_faulted h]
  · rw [hserve, whenClear_of_faulted _ h]

/-- Settles O21: the step serves the request, which the standing fault answers. -/
theorem aFaultedBlockRefusesEveryRequest : Obligations.AFaultedBlockRefusesEveryRequest := by
  intro s f r rest hs hq
  exact (step_of_request hq).trans (serve_of_faulted r (s := setRequests rest s) hs)

end Sys2Proof.Proofs
end

section
/-! PROOFS. The checksum engine over many operations: its registers hold the input taken in (R16 to R18), the stepwise
checksum is the function (R68), and four bytes at a word boundary are one word (R74). -/

namespace Sys2Proof.Proofs

open Sys2Proof.Machine Sys2Proof.Safety Sys2Proof.Laws

/-! ### The input taken in, as whole words and the partial word in the lanes -/

/-- The bytes of the partial word: the lanes below `BCNT`. -/
def partialWord (s : State) : List Byte := s.lane.toList.take s.bcnt.toNat

theorem length_partialWord (s : State) : (partialWord s).length = s.bcnt.toNat := by
  have := s.bcnt.isLt
  simp [partialWord]
  omega

theorem partialWord_getElem? (s : State) (i : Nat) (h : i < 4) (hi : i < s.bcnt.toNat) :
    (partialWord s)[i]? = some s.lane[i] := by
  simp [partialWord, hi, h]

/-- The bytes of a partial word add nothing to the sum (R65). -/
theorem sumWords_append_partialWord (acc : Word) {words : List Byte} (h : words.length % 4 = 0) (s : State) :
    sumWords acc (words ++ partialWord s) = sumWords acc words := by
  rw [sumWords_append acc _ _ h, sumWords_of_short _ (length_partialWord s ▸ s.bcnt.isLt)]

/-- `Holds` says that the input is some whole words, whose sum is `ACC`, and then the partial word. -/
theorem holds_iff {s : State} {input : List Byte} :
    Holds s input ↔
      ∃ words, words.length % 4 = 0 ∧ input = words ++ partialWord s ∧ s.acc = sumWords Config.seed words := by
  constructor
  · rintro ⟨hacc, hbcnt, hlanes⟩
    have hlt := s.bcnt.isLt
    have hdrop : input.drop (input.length - s.bcnt.toNat) = partialWord s := by
      refine List.ext_getElem? fun i => ?_
      rw [List.getElem?_drop]
      by_cases hi : i < s.bcnt.toNat
      · rw [hlanes i (by omega) hi, partialWord_getElem? s i (by omega) hi]
      · rw [List.getElem?_eq_none (by omega), List.getElem?_eq_none (by rw [length_partialWord]; omega)]
    obtain ⟨words, hwords⟩ : ∃ words, input = words ++ partialWord s :=
      ⟨_, (hdrop ▸ List.take_append_drop _ input).symm⟩
    have haligned : words.length % 4 = 0 := by
      rw [hwords, List.length_append, length_partialWord] at hbcnt
      omega
    exact ⟨words, haligned, hwords, by rw [hacc, hwords, sumWords_append_partialWord _ haligned]; rfl⟩
  · rintro ⟨words, haligned, rfl, hacc⟩
    refine ⟨hacc.trans (sumWords_append_partialWord _ haligned s).symm, ?_, fun i h hi => ?_⟩
    · rw [List.length_append, length_partialWord]
      have := s.bcnt.isLt
      omega
    · rw [List.length_append, length_partialWord, Nat.add_sub_cancel, List.getElem?_append_right (by omega),
        Nat.add_sub_cancel_left, partialWord_getElem? s i h hi]

theorem holds_nil {s : State} (hacc : s.acc = Config.seed) (hbcnt : s.bcnt = 0) : Holds s [] :=
  holds_iff.mpr ⟨[], rfl, by simp [partialWord, hbcnt], hacc⟩

/-- Absorbing a byte takes it in: it is the next lane of the partial word, or completes the next whole word (R65). -/
theorem holds_absorb (b : Byte) {s : State} {input : List Byte} (h : Holds s input) :
    Holds (absorb b s) (input ++ [b]) := by
  obtain ⟨words, haligned, rfl, hacc⟩ := holds_iff.mp h
  rw [holds_iff]
  by_cases hb : s.bcnt = 3
  · have hlanes : partialWord s = [s.lane[0], s.lane[1], s.lane[2]] := by
      rw [partialWord, hb]
      apply List.ext_getElem <;> simp
      intro i h1 
      interval_cases i <;> rfl
    rw [absorb_complete b hb, hlanes]
    refine ⟨words ++ [s.lane[0], s.lane[1], s.lane[2], b], by simp; omega, by simp [partialWord], ?_⟩
    rw [sumWords_append _ _ _ haligned, ← hacc]
    rfl
  · have hnext : (s.bcnt + 1).toNat = s.bcnt.toNat + 1 := by bv_omega
    rw [absorb_partial b hb]
    refine ⟨words, haligned, ?_, hacc⟩
    simp only [partialWord, hnext, List.append_assoc, Vector.toList_set, List.take_add_one]
    rw [List.take_set_of_le le_rfl, List.getElem?_set_self (by simp; omega)]
    rfl

/-- `CS.INIT` leaves the registers holding nothing, also where nothing was known of them (R64). -/
theorem holds_startSum (s : State) : Holds (startSum s) [] := holds_nil rfl rfl

/-- Every operation on a clear block takes in what `inputAfter` says. -/
theorem holds_issue (i : Instr) {s : State} {input : List Byte} (hs : s.fault = none) (h : Holds s input) :
    Holds (issue i s) (inputAfter i input) := by
  cases i with
  | csInit => rw [issue_csInit hs]; exact holds_startSum s
  | csByte b => rw [issue_csByte hs]; exact holds_absorb b h
  | csFinish =>
    by_cases hb : s.bcnt = 0
    · rw [issue_csFinish_aligned hs hb]; exact h
    · rw [issue_csFinish_misaligned hs hb]; exact h
  | pfStart => rw [issue_pfStart hs]; exact h
  | pfData p =>
    by_cases hp : p.length ≤ 64
    · rw [issue_pfData hs hp]; exact h
    · rw [issue_pfData_oversize hs (not_le.mp hp)]; exact h
  | pfReset => rw [issue_pfReset hs]; exact h

/-- Settles O6: reset leaves the registers holding nothing, and every operation keeps them holding the
input taken in. -/
theorem ceRegistersHoldTheInputTakenIn : Obligations.CeRegistersHoldTheInputTakenIn :=
  ⟨holds_nil rfl rfl, fun i s _ hs h => ⟨issue i s, exec_eq_issue i s, holds_issue i hs h⟩⟩

/-! ### The stepwise checksum (R60, R68) -/

/-- Bytes taken in one by one: each is answered `ok`, and `TX` and `FAULT` stay. -/
theorem issueAll_csByte (bytes : List Byte) {s : State} {input : List Byte} (hs : s.fault = none)
    (h : Holds s input) :
    (issueAll (bytes.map .csByte) s).fault = none ∧ Holds (issueAll (bytes.map .csByte) s) (input ++ bytes) ∧
      (issueAll (bytes.map .csByte) s).tx = s.tx ∧
      (issueAll (bytes.map .csByte) s).responses = s.responses ++ List.replicate bytes.length .ok := by
  induction bytes generalizing s input with
  | nil => simpa using ⟨hs, h⟩
  | cons b bytes ih =>
    obtain ⟨hfault, hholds, htx, hresponses⟩ :=
      ih (s := respond .ok (absorb b s)) ((absorb_fault b s).trans hs) (holds_absorb b h)
    rw [List.map_cons, issueAll_cons, issue_csByte hs, hfault, htx, hresponses]
    refine ⟨rfl, by simpa using hholds, by simp, by simp [List.replicate_succ]⟩

/-- `CS.FINISH` after whole words delivers their sum (R66). -/
theorem issue_csFinish_of_holds_aligned {s : State} {input : List Byte} (hs : s.fault = none) (h : Holds s input)
    (hlen : input.length % 4 = 0) : issue .csFinish s = respond (.okWord (sumWords Config.seed input)) s := by
  obtain ⟨hacc, hbcnt, -⟩ := h
  rw [issue_csFinish_aligned hs (BitVec.eq_of_toNat_eq (hbcnt.trans hlen)), hacc]
  rfl

/-- `CS.FINISH` inside a word raises `InvalidLength` (R66). -/
theorem issue_csFinish_of_holds_misaligned {s : State} {input : List Byte} (hs : s.fault = none) (h : Holds s input)
    (hlen : input.length % 4 ≠ 0) : issue .csFinish s = raise .invalidLength s := by
  obtain ⟨-, hbcnt, -⟩ := h
  exact issue_csFinish_misaligned hs (BitVec.toNat_ne_iff_ne.mp (hbcnt ▸ hlen))

/-- The answer of `CS.FINISH` after an input. -/
def finishAnswer (input : List Byte) : Response :=
  if input.length % 4 = 0 then .okWord (sumWords Config.seed input) else .fault .invalidLength

/-- The bytes of an input and `CS.FINISH`, from registers that hold nothing: the answer is the input's alone. -/
theorem lastResponse_bytes_csFinish (input : List Byte) {s : State} (hs : s.fault = none) (h : Holds s []) :
    lastResponse (issueAll (input.map .csByte ++ [.csFinish]) s) = some (finishAnswer input) := by
  obtain ⟨hfault, hholds, -, -⟩ := issueAll_csByte input hs h
  rw [issueAll_append, issueAll_cons, issueAll_nil, finishAnswer]
  by_cases hlen : input.length % 4 = 0
  · rw [issue_csFinish_of_holds_aligned hfault hholds hlen, if_pos hlen]
    exact lastResponse_respond _ _
  · rw [issue_csFinish_of_holds_misaligned hfault hholds hlen, if_neg hlen]
    exact lastResponse_respond _ _

theorem issueAll_checksumOps (input : List Byte) {s : State} (hs : s.fault = none) :
    issueAll (checksumOps input) s =
      issue .csFinish (issueAll (input.map .csByte) (respond .ok (startSum s))) := by
  rw [checksumOps, issueAll_cons, issue_csInit hs, issueAll_append]
  rfl

/-- The state before the `CS.FINISH` of a stepwise checksum. -/
theorem before_csFinish (input : List Byte) {s : State} (hs : s.fault = none) :
    ∃ t, issueAll (checksumOps input) s = issue .csFinish t ∧ t.fault = none ∧ Holds t input ∧ t.tx = s.tx ∧
      t.responses = s.responses ++ List.replicate (input.length + 1) .ok := by
  obtain ⟨hfault, hholds, htx, hresponses⟩ :=
    issueAll_csByte input (s := respond .ok (startSum s)) hs (holds_startSum s)
  refine ⟨_, issueAll_checksumOps input hs, hfault, hholds, htx, hresponses.trans ?_⟩
  simp [List.replicate_succ]

/-- R68 for whole words. -/
theorem checksumOps_aligned {input : List Byte} {s : State} (hs : s.fault = none) (hlen : input.length % 4 = 0) :
    ∃ v, checksum input = .ok v ∧ (issueAll (checksumOps input) s).acc = v ∧
      (issueAll (checksumOps input) s).bcnt = 0 ∧ (issueAll (checksumOps input) s).fault = none ∧
      (issueAll (checksumOps input) s).tx = s.tx ∧
      (issueAll (checksumOps input) s).responses =
        s.responses ++ List.replicate (input.length + 1) .ok ++ [.okWord v] := by
  obtain ⟨t, ht, hfault, hholds, htx, hresponses⟩ := before_csFinish input hs
  rw [ht, issue_csFinish_of_holds_aligned hfault hholds hlen]
  obtain ⟨hacc, hbcnt, -⟩ := hholds
  exact ⟨_, checksum_of_aligned hlen, hacc, BitVec.eq_of_toNat_eq (hbcnt.trans hlen), hfault, htx,
    congrArg (· ++ _) hresponses⟩

/-- R68 for a length that is no whole number of words. -/
theorem checksumOps_misaligned {input : List Byte} {s : State} (hs : s.fault = none) (hlen : input.length % 4 ≠ 0) :
    (issueAll (checksumOps input) s).fault = some .invalidLength ∧
      (issueAll (checksumOps input) s).tx = s.tx ∧
      (issueAll (checksumOps input) s).responses =
        s.responses ++ List.replicate (input.length + 1) .ok ++ [.fault .invalidLength] := by
  obtain ⟨t, ht, hfault, hholds, htx, hresponses⟩ := before_csFinish input hs
  rw [ht, issue_csFinish_of_holds_misaligned hfault hholds hlen]
  exact ⟨rfl, htx, congrArg (· ++ _) hresponses⟩

/-- Settles O7: the bytes are all answered `ok`, and the length decides what `CS.FINISH` answers. -/
theorem stepwiseChecksumAgreesWithTheFunction : Obligations.StepwiseChecksumAgreesWithTheFunction := by
  refine ⟨fun s input hs => ⟨_, rfl, ?_⟩, fun input => ?_⟩
  · by_cases hlen : input.length % 4 = 0
    · obtain ⟨v, hv, hacc, hbcnt, hfault, htx, hresponses⟩ := checksumOps_aligned hs hlen
      exact ⟨htx, fun _ => ⟨v, hv, hacc, hbcnt, hfault, hresponses⟩, fun h => absurd hlen h⟩
    · obtain ⟨hfault, htx, hresponses⟩ := checksumOps_misaligned hs hlen
      exact ⟨htx, fun h => absurd h hlen, fun _ => ⟨checksum_of_misaligned hlen, hfault, hresponses⟩⟩
  · rw [checksumOps, issueAll_cons, issue_csInit rfl, lastResponse_bytes_csFinish input rfl (holds_nil rfl rfl)]
    exact (lastResponse_bytes_csFinish input (s := respond .ok (startSum State.reset)) rfl (holds_startSum _)).symm

/-! ### Four bytes at a word boundary (R74) -/

/-- Answering and absorbing touch different fields. -/
theorem absorb_respond (b : Byte) (r : Response) (s : State) : absorb b (respond r s) = respond r (absorb b s) := by
  by_cases hb : s.bcnt = 3
  · rw [absorb_complete b hb, absorb_complete (s := respond r s) b hb]; rfl
  · rw [absorb_partial b hb, absorb_partial (s := respond r s) b hb]; rfl

theorem set_all_lanes (l : Vector Byte 4) (b0 b1 b2 b3 : Byte) :
    (((l.set 0 b0).set 1 b1).set 2 b2).set 3 b3 = #v[b0, b1, b2, b3] := by
  refine Vector.ext fun i hi => ?_
  interval_cases i <;> simp

theorem absorb_four (b0 b1 b2 b3 : Byte) {s : State} (h : s.bcnt = 0) :
    absorb b3 (absorb b2 (absorb b1 (absorb b0 s))) =
      { s with acc := s.acc + wordOfBytes b0 b1 b2 b3, lane := #v[b0, b1, b2, b3] } := by
  rw [← set_all_lanes s.lane]
  simp [absorb, latchByte, laneWord, h]

/-- A clear block answers a byte `ok` and stays clear. -/
theorem issueAll_csByte_cons (b : Byte) (ops : List Instr) {s : State} (hs : s.fault = none) :
    issueAll (.csByte b :: ops) s = issueAll ops (respond .ok (absorb b s)) := by
  rw [issueAll_cons, issue_csByte hs]

/-- Settles O8: absorbing goes through the answers, and four bytes absorbed from lane 0 on are one word. -/
theorem fourBytesAtAWordBoundaryAddOneWord : Obligations.FourBytesAtAWordBoundaryAddOneWord := by
  intro s b0 b1 b2 b3 hs hb
  rw [issueAll_csByte_cons, issueAll_csByte_cons, issueAll_csByte_cons, issueAll_csByte_cons, issueAll_nil]
  · simp only [absorb_respond, absorb_four _ _ _ _ hb]
    simp [respond]
  all_goals simp [hs]

end Sys2Proof.Proofs
end

section
/-! PROOFS. Requests and steps: which requests select which operation (R52 to R56, R61), what one operation can do to a
state, and what a step and a run of steps make of the pending events (R13, R24, R42, R120). -/

namespace Sys2Proof.Proofs

open Sys2Proof.Machine Sys2Proof.Safety Sys2Proof.Laws

/-! ### The requests of each operation -/

/-- The requests that the tables of R52 and R53 give to a decoding, reserved ones included (R54, R55). -/
def IsRequestFor : Except DecodeError Instr → Request → Prop
  | .ok .csInit, r => ∃ d : Byte, r = .ce (0#2 ++ d)
  | .ok (.csByte b), r => r = .ce (1#2 ++ b)
  | .ok .csFinish, r => ∃ d : Byte, r = .ce (2#2 ++ d)
  | .ok .pfStart, r => ∃ p, r = .pfe 0x00000000 p
  | .ok (.pfData p), r => r = .pfe 0x00000001 p
  | .ok .pfReset, r => ∃ p, r = .pfe 0x00000002 p
  | .error .reservedCeOp, r => ∃ d : Byte, r = .ce (3#2 ++ d)
  | .error (.reservedPfCmd c), r =>
    (∃ p, r = .pfe c p) ∧ c ≠ 0x00000000 ∧ c ≠ 0x00000001 ∧ c ≠ 0x00000002

theorem decode_of_isRequestFor {x : Except DecodeError Instr} {r : Request} (h : IsRequestFor x r) :
    decode r = x := by
  match x, h with
  | .ok .csInit, ⟨d, hr⟩ => exact hr ▸ decode_csInit d
  | .ok (.csByte b), hr => exact hr ▸ decode_csByte b
  | .ok .csFinish, ⟨d, hr⟩ => exact hr ▸ decode_csFinish d
  | .ok .pfStart, ⟨p, hr⟩ => exact hr ▸ decode_pfStart p
  | .ok (.pfData p), hr => exact hr ▸ decode_pfData p
  | .ok .pfReset, ⟨p, hr⟩ => exact hr ▸ decode_pfReset p
  | .error .reservedCeOp, ⟨d, hr⟩ => exact hr ▸ decode_ce_reserved d
  | .error (.reservedPfCmd c), ⟨⟨p, hr⟩, hstart, hdata, hreset⟩ =>
    exact hr ▸ decode_pfe_reserved p hstart hdata hreset

/-- The selector has four values, and a command identifier is one of the three or reserved: every request has a form. -/
theorem exists_isRequestFor (r : Request) : ∃ x, IsRequestFor x r := by
  cases r with
  | ce req =>
    rw [← ceReq_eq_append req]
    have hop : ceOp req = 0 ∨ ceOp req = 1 ∨ ceOp req = 2 ∨ ceOp req = 3 := by
      generalize ceOp req = op
      revert op
      decide
    obtain hop | hop | hop | hop := hop <;> rw [hop]
    · exact ⟨.ok .csInit, ceData req, rfl⟩
    · exact ⟨.ok (.csByte (ceData req)), rfl⟩
    · exact ⟨.ok .csFinish, ceData req, rfl⟩
    · exact ⟨.error .reservedCeOp, ceData req, rfl⟩
  | pfe c p =>
    by_cases hstart : c = 0
    · exact ⟨.ok .pfStart, p, hstart ▸ rfl⟩
    by_cases hdata : c = 1
    · exact ⟨.ok (.pfData p), hdata ▸ rfl⟩
    by_cases hreset : c = 2
    · exact ⟨.ok .pfReset, p, hreset ▸ rfl⟩
    exact ⟨.error (.reservedPfCmd c), ⟨p, rfl⟩, hstart, hdata, hreset⟩

/-- The decoder reads the tables and nothing else. -/
theorem decode_eq_iff {x : Except DecodeError Instr} {r : Request} : decode r = x ↔ IsRequestFor x r := by
  refine ⟨fun h => ?_, decode_of_isRequestFor⟩
  obtain ⟨y, hy⟩ := exists_isRequestFor r
  obtain rfl : y = x := (decode_of_isRequestFor hy).symm.trans h
  exact hy

theorem decode_eq_csFinish_iff {r : Request} : decode r = .ok .csFinish ↔ ∃ d : Byte, r = .ce (2#2 ++ d) :=
  decode_eq_iff

theorem decode_eq_pfData_iff {r : Request} {p : List Byte} : decode r = .ok (.pfData p) ↔ r = .pfe 0x00000001 p :=
  decode_eq_iff

theorem decode_encode (i : Instr) : decode (encode i) = .ok i := by
  cases i with
  | csInit => exact decode_csInit 0
  | csByte b => exact decode_csByte b
  | csFinish => exact decode_csFinish 0
  | pfStart => exact decode_pfStart []
  | pfData p => exact decode_pfData p
  | pfReset => exact decode_pfReset []

/-- Settles O31: each clause about a request is the decoder's characterisation at one decoding. -/
theorem decodeAndEncodeAgree : Obligations.DecodeAndEncodeAgree :=
  ⟨decode_encode, fun _ => ⟨decode_eq_iff, fun _ => decode_eq_iff, decode_eq_iff, decode_eq_iff,
    fun _ => decode_eq_iff, decode_eq_iff, decode_eq_iff, fun _ => decode_eq_iff⟩⟩

/-! ### The opcode table (R61) -/

theorem covers_ce_iff : ∀ op : BitVec 2, ∀ d : Byte, ∀ row ∈ opcodeTable,
    (row.covers (.ce (op ++ d)) = true ↔ row.width = 10 ∧ row.pattern = 256 * op.toNat) := by
  decide

/-- A row of the table looks at no payload. -/
theorem covers_pfe (row : OpcodeRow) (c : Word) (p : List Byte) :
    row.covers (.pfe c p) = row.covers (.pfe c []) := rfl

/-- Settles O33: a CE request is of the row with its selector, a PFE request of the row with its command. -/
theorem everyRequestIsOfExactlyItsRow : Obligations.EveryRequestIsOfExactlyItsRow := by
  intro r i hr row hrow
  have hform := decode_eq_iff.mp hr
  cases i with
  | csInit =>
    obtain ⟨d, rfl⟩ := hform
    rw [covers_ce_iff _ d row hrow]
    revert row
    decide
  | csByte b =>
    obtain rfl := hform
    rw [covers_ce_iff _ b row hrow]
    revert row
    simp only [Instr.mnemonic]
    decide
  | csFinish =>
    obtain ⟨d, rfl⟩ := hform
    rw [covers_ce_iff _ d row hrow]
    revert row
    decide
  | pfStart =>
    obtain ⟨p, rfl⟩ := hform
    rw [covers_pfe]
    revert row
    decide
  | pfData p =>
    obtain rfl := hform
    rw [covers_pfe]
    revert row
    simp only [Instr.mnemonic]
    decide
  | pfReset =>
    obtain ⟨p, rfl⟩ := hform
    rw [covers_pfe]
    revert row
    decide

/-- Settles O32: nine closed decodings. -/
theorem writtenOutWordsDecode : Obligations.WrittenOutWordsDecode := by
  unfold Obligations.WrittenOutWordsDecode
  decide

/-! ### What one operation can do -/

/-- The outcomes of an operation: the standing fault (R107), or on a clear block what R64 to R66 and R78 to R80 say. -/
inductive Issued (s : State) : Instr → State → Prop
  | refused (i : Instr) (f : BlockFault) (hs : s.fault = some f) : Issued s i (respond (.fault f) s)
  | init (hs : s.fault = none) : Issued s .csInit (respond .ok (startSum s))
  | byte (b : Byte) (hs : s.fault = none) : Issued s (.csByte b) (respond .ok (absorb b s))
  | word (hs : s.fault = none) (hb : s.bcnt = 0) : Issued s .csFinish (respond (.okWord s.acc) s)
  | misaligned (hs : s.fault = none) (hb : s.bcnt ≠ 0) : Issued s .csFinish (raise .invalidLength s)
  | framed (i : Instr) (hs : s.fault = none) (hi : IsPf i = true) (hw : i.wellFormed = true) :
      Issued s i (respond .ok (emit (frame i) s))
  | oversized (p : List Byte) (hs : s.fault = none) (hp : 64 < p.length) :
      Issued s (.pfData p) (raise .payloadTooLarge s)

/-- A PF operation on a clear block emits its frame, or is a `PF.DATA` with too large a payload. -/
theorem issued_pf {i : Instr} {s : State} (hs : s.fault = none) (hi : IsPf i = true) : Issued s i (issue i s) := by
  by_cases hw : i.wellFormed = true
  · rw [issue_pf_wellFormed hi hs hw]
    exact .framed i hs hi hw
  · rw [issue_of_not_wellFormed hs hw]
    cases i with
    | csInit | csByte _ | csFinish => cases hi
    | pfStart | pfReset => exact absurd rfl hw
    | pfData p => exact .oversized p hs (not_le.mp (mt wellFormed_pfData.mpr hw))

theorem issued (i : Instr) (s : State) : Issued s i (issue i s) := by
  cases hs : s.fault with
  | some f => rw [issue_of_faulted hs]; exact .refused i f hs
  | none =>
    cases i with
    | csInit => rw [issue_csInit hs]; exact .init hs
    | csByte b => rw [issue_csByte hs]; exact .byte b hs
    | csFinish =>
      by_cases hb : s.bcnt = 0
      · rw [issue_csFinish_aligned hs hb]; exact .word hs hb
      · rw [issue_csFinish_misaligned hs hb]; exact .misaligned hs hb
    | pfStart | pfData _ | pfReset => exact issued_pf hs rfl

theorem requests_of_issued {s t : State} {i : Instr} (h : Issued s i t) : t.requests = s.requests := by
  cases h with
  | byte b => exact absorb_requests b s
  | _ => rfl

theorem resets_of_issued {s t : State} {i : Instr} (h : Issued s i t) : t.resets = s.resets := by
  cases h with
  | byte b => exact absorb_resets b s
  | _ => rfl

/-- One response to each operation, a word from `CS.FINISH` alone (R24). -/
theorem responses_of_issued {s t : State} {i : Instr} (h : Issued s i t) :
    ∃ a, t.responses = s.responses ++ [a] ∧ ∀ v, a = .okWord v → i = .csFinish := by
  cases h with
  | refused i f => exact ⟨.fault f, rfl, fun _ h => nomatch h⟩
  | init => exact ⟨.ok, rfl, fun _ h => nomatch h⟩
  | byte b => exact ⟨.ok, congrArg (· ++ _) (absorb_responses b s), fun _ h => nomatch h⟩
  | word => exact ⟨.okWord s.acc, rfl, fun _ _ => rfl⟩
  | misaligned => exact ⟨.fault .invalidLength, rfl, fun _ _ => rfl⟩
  | framed i => exact ⟨.ok, rfl, fun _ h => nomatch h⟩
  | oversized p => exact ⟨.fault .payloadTooLarge, rfl, fun _ h => nomatch h⟩

/-- `TX` stays, or grows by the frame of a PF operation with a legal operand. -/
theorem tx_of_issued {s t : State} {i : Instr} (h : Issued s i t) :
    t.tx = s.tx ∨ IsPf i = true ∧ i.wellFormed = true ∧ t.tx = s.tx ++ frame i := by
  cases h with
  | framed i _ hi hw => exact .inr ⟨hi, hw, rfl⟩
  | byte b => exact .inl (absorb_tx b s)
  | _ => exact .inl rfl

/-- What an operation on a clear block leaves in `FAULT` (R105). -/
theorem fault_of_issued {s t : State} {i : Instr} (h : Issued s i t) (hs : s.fault = none) :
    (t.fault = some .invalidLength ↔ i = .csFinish ∧ s.bcnt.toNat ≠ 0) ∧
      (t.fault = some .payloadTooLarge ↔ ∃ p, i = .pfData p ∧ 64 < p.length) ∧
      t.fault ≠ some .invalidCommand := by
  cases h with
  | refused i f hf => cases hs.symm.trans hf
  | init | byte b => simp [hs]
  | word _ hb => simp [hs, hb]
  | misaligned _ hb => exact ⟨iff_of_true rfl ⟨rfl, BitVec.toNat_ne_iff_ne.mpr hb⟩, by simp, by simp⟩
  | framed i _ hi hw =>
    cases i with
    | csInit | csByte _ | csFinish => cases hi
    | pfStart | pfReset => simp [hs]
    | pfData p => simp [hs, wellFormed_pfData.mp hw]
  | oversized p _ hp => simp [hp]

/-! Which operations write each register (R15). -/

theorem acc_ne_of_issued {s t : State} {i : Instr} (h : Issued s i t) (hne : t.acc ≠ s.acc) :
    i = .csInit ∨ ∃ b, i = .csByte b ∧ s.bcnt.toNat = 3 := by
  cases h with
  | init => exact .inl rfl
  | byte b =>
    refine .inr ⟨b, rfl, ?_⟩
    by_contra hb
    exact hne (absorb_partial_acc_bcnt b (by have := s.bcnt.isLt; omega)).1
  | _ => exact absurd rfl hne

theorem lane_ne_of_issued {s t : State} {i : Instr} (h : Issued s i t) (hne : t.lane ≠ s.lane) :
    ∃ b, i = .csByte b := by
  cases h with
  | byte b => exact ⟨b, rfl⟩
  | _ => exact absurd rfl hne

theorem bcnt_ne_of_issued {s t : State} {i : Instr} (h : Issued s i t) (hne : t.bcnt ≠ s.bcnt) :
    i = .csInit ∨ ∃ b, i = .csByte b := by
  cases h with
  | init => exact .inl rfl
  | byte b => exact .inr ⟨b, rfl⟩
  | _ => exact absurd rfl hne

theorem fault_ne_of_issued {s t : State} {i : Instr} (h : Issued s i t) (hne : t.fault ≠ s.fault) :
    i = .csFinish ∨ ∃ p, i = .pfData p ∧ 64 < p.length := by
  cases h with
  | misaligned => exact .inl rfl
  | oversized p _ hp => exact .inr ⟨p, rfl, hp⟩
  | byte b => exact absurd (absorb_fault b s) hne
  | _ => exact absurd rfl hne

/-- Settles O18: register by register, which outcomes of an operation write it. -/
theorem onlyTheNamedOperationsWriteEachRegister : Obligations.OnlyTheNamedOperationsWriteEachRegister := by
  intro i s
  have h := issued i s
  exact ⟨issue i s, exec_eq_issue i s, acc_ne_of_issued h, lane_ne_of_issued h, bcnt_ne_of_issued h,
    fault_ne_of_issued h, (tx_of_issued h).resolve_left, requests_of_issued h, resets_of_issued h⟩

/-! ### Steps -/

theorem step_of_nil {s : State} (h : s.requests = []) : step s = .fault .noRequest := by
  simp only [step, takeNext, h]

/-- A request that selects an operation is served by that operation. -/
theorem serve_of_decode_ok {r : Request} {i : Instr} (s : State) (h : decode r = .ok i) :
    serve r s = .next (issue i s) := by
  simp only [serve, h, exec_eq_issue]

theorem step_of_decode_ok {s : State} {r : Request} {i : Instr} {rest : List HostEvent}
    (hq : s.requests = .request r :: rest) (hr : decode r = .ok i) :
    step s = .next (issue i (setRequests rest s)) :=
  (step_of_request hq).trans (serve_of_decode_ok _ hr)

/-- Something pending is always taken, whatever it is. -/
theorem exists_step_of_cons {s : State} {e : HostEvent} {rest : List HostEvent} (h : s.requests = e :: rest) :
    ∃ t, step s = .next t := by
  cases e with
  | reset => exact ⟨_, step_of_reset h⟩
  | request r =>
    obtain ⟨i, -, hserve⟩ | ⟨e, -, hserve⟩ := serve_cases r (setRequests rest s) <;>
      exact ⟨_, (step_of_request h).trans hserve⟩

/-- Settles O26: nothing pending is the one case without a next state. -/
theorem theMachineStopsOnlyWhenNothingIsAsked : Obligations.TheMachineStopsOnlyWhenNothingIsAsked := by
  intro s
  cases h : s.requests with
  | nil => simp [step_of_nil h]
  | cons e rest =>
    obtain ⟨t, ht⟩ := exists_step_of_cons h
    simp [ht]

/-- Settles O27: the step takes the request off and serves it, and `exec` always ends in the state of `issue`. -/
theorem stepRunsTheDecodedOperation : Obligations.StepRunsTheDecodedOperation := by
  intro s r rest i hq hr
  rw [step_of_decode_ok hq hr, exec_eq_issue]
  rfl

/-- The inversion lemma of `decodeTableWord`. -/
theorem decodeTableWord_eq_some {nbits w : Nat} {i : Instr} (h : decodeTableWord nbits w = some i) :
    ∃ r, tableRequest nbits w = some r ∧ decode r = .ok i := by
  rw [decodeTableWord] at h
  split at h
  next r hr =>
    split at h
    next j hj => exact ⟨r, hr, hj.trans (congrArg _ (Option.some.inj h))⟩
    next => cases h
  next => cases h

/-- Settles O28: the word's request is put first, and the step that takes it off leaves the state as it was. -/
theorem aPresentedTableWordIsRunNext : Obligations.APresentedTableWordIsRunNext := by
  intro s nbits w i h
  obtain ⟨r, hr, hi⟩ := decodeTableWord_eq_some h
  have hpresent : s.withFetchWord nbits w = present r s := by simp only [State.withFetchWord, hr]
  rw [hpresent, step_of_decode_ok (present_requests r s) hi, exec_eq_issue]
  rfl

/-- Settles O2: the reset event is taken off the port, and `resetBlock` writes what R120 names. -/
theorem resetEventRestoresTheResetValues : Obligations.ResetEventRestoresTheResetValues :=
  fun _ _ h => step_of_reset h

/-- Settles O25: an operation gives its one response, a reserved request a fault. -/
theorem everyRequestGetsExactlyOneResponse : Obligations.EveryRequestGetsExactlyOneResponse := by
  intro s r rest hq
  obtain ⟨i, hr, hserve⟩ | ⟨e, -, hserve⟩ := serve_cases r (setRequests rest s)
  · have h := issued i (setRequests rest s)
    obtain ⟨a, ha, hword⟩ := responses_of_issued h
    exact ⟨_, a, (step_of_request hq).trans hserve, ha, requests_of_issued h, fun v hv => hword v hv ▸ hr⟩
  · obtain ⟨-, hraise⟩ | ⟨f, -, hrefuse⟩ :=
      whenClear_cases (setRequests rest s) (raise .invalidCommand (setRequests rest s))
    · exact ⟨_, .fault .invalidCommand, (step_of_request hq).trans (hraise ▸ hserve), rfl, rfl, nofun⟩
    · exact ⟨_, .fault f, (step_of_request hq).trans (hrefuse ▸ hserve), rfl, rfl, nofun⟩

/-! ### Faults over steps and lists of operations -/

/-- Settles O24: a faulted block answers a request with its fault, and only a reset does anything else. -/
theorem onlyResetClearsAFault : Obligations.OnlyResetClearsAFault := by
  intro s t f hs hstep
  obtain ⟨rest, ⟨hq, rfl⟩ | ⟨r, hq, -⟩⟩ := step_cases hstep
  · exact .inr ⟨rfl, rest, hq⟩
  · have h := (step_of_request hq).trans (serve_of_faulted r (s := setRequests rest s) hs)
    obtain rfl := Host.Outcome.next.inj (hstep.symm.trans h)
    exact .inl ⟨hs, r, rest, hq⟩

/-- Settles O22, by induction on the operations. -/
theorem nothingFollowsAFault : Obligations.NothingFollowsAFault := by
  intro ops s f hs
  induction ops generalizing s with
  | nil => simp
  | cons i ops ih =>
    rw [issueAll_cons, issue_of_faulted hs, ih (respond (.fault f) s) hs]
    simp [respond, List.replicate_succ]

/-- R54, R55: the reserved requests. -/
theorem decode_eq_error_iff {r : Request} :
    (∃ e, decode r = .error e) ↔
      (∃ d : Byte, r = .ce (3#2 ++ d)) ∨
        ∃ c p, r = .pfe c p ∧ c ≠ 0x00000000 ∧ c ≠ 0x00000001 ∧ c ≠ 0x00000002 := by
  constructor
  · rintro ⟨e, he⟩
    have hform := decode_eq_iff.mp he
    cases e with
    | reservedCeOp => exact .inl hform
    | reservedPfCmd c =>
      obtain ⟨⟨p, hr⟩, hc⟩ := hform
      exact .inr ⟨c, p, hr, hc⟩
  · rintro (⟨d, rfl⟩ | ⟨c, p, rfl, hstart, hdata, hreset⟩)
    · exact ⟨_, decode_ce_reserved d⟩
    · exact ⟨_, decode_pfe_reserved p hstart hdata hreset⟩

/-- Settles O19: the decoder tells the requests apart; an operation on a clear block leaves the fault that its operand or
`BCNT` asks for, and a reserved request leaves `InvalidCommand`. -/
theorem eachFaultHasExactlyItsCause : Obligations.EachFaultHasExactlyItsCause := by
  intro s r rest hs hq
  rw [← decode_eq_error_iff, ← decode_eq_csFinish_iff]
  simp only [← decode_eq_pfData_iff]
  cases hr : decode r with
  | ok i =>
    obtain ⟨hlength, htoolarge, hcommand⟩ := fault_of_issued (issued i (setRequests rest s)) hs
    exact ⟨_, step_of_decode_ok hq hr, by simpa using hlength, by simpa using htoolarge, by simpa using hcommand⟩
  | error e => exact ⟨_, step_of_decode_error hs hr hq, by simp, by simp, by simp⟩

/-! ### Runs of steps (R13, R42) -/

theorem run_succ_of_step {M : Host.Core} {s t : M.State} (h : M.step s = .next t) (n : Nat) :
    M.run (n + 1) s = M.run n t := by
  simp only [Host.Core.run, h]

/-- Settles O29, by induction on the operations: each step takes one request off, and what is still pending plays no part
in an operation. -/
theorem pendingRequestsRunInOrder : Obligations.PendingRequestsRunInOrder := by
  intro ops s rest hq
  induction ops generalizing s with
  | nil =>
    obtain rfl : s.requests = rest := hq
    rfl
  | cons i ops ih =>
    have hstep := step_of_decode_ok hq (decode_encode i)
    rw [issue_setRequests] at hstep
    rw [List.length_cons, run_succ_of_step (M := core) hstep, ih _ rfl, issueAll_cons]
    exact congrArg (fun t => Host.Outcome.next (issueAll ops t)) (issue_setRequests i rest s).symm

/-! ### Dead lanes over a step (R17) -/

theorem requests_eq_of_sameButDeadLanes {s t : State} (h : SameButDeadLanes s t) : t.requests = s.requests := by
  rw [h.2]

theorem sameButDeadLanes_setRequests {s t : State} (h : SameButDeadLanes s t) (rest : List HostEvent) :
    SameButDeadLanes (setRequests rest s) (setRequests rest t) :=
  ⟨h.1, congrArg (setRequests rest) h.2⟩

theorem sameButDeadLanes_resetBlock {s t : State} (h : SameButDeadLanes s t) :
    SameButDeadLanes (resetBlock s) (resetBlock t) := by
  rw [h.2]
  exact sameButDeadLanes_of_bcnt_zero _ rfl

theorem sameButDeadLanes_whenClear_raise {s t : State} (h : SameButDeadLanes s t) (f : BlockFault) :
    SameButDeadLanes (whenClear s (raise f s)) (whenClear t (raise f t)) := by
  have hfault := fault_eq_of_sameButDeadLanes h
  cases hs : s.fault with
  | none =>
    rw [whenClear_of_clear _ hs, whenClear_of_clear _ (hfault.trans hs)]
    exact sameButDeadLanes_raise h f
  | some g =>
    rw [whenClear_of_faulted _ hs, whenClear_of_faulted _ (hfault.trans hs)]
    exact sameButDeadLanes_respond h _

/-- Serving a request keeps the relation, whether it selects an operation or is reserved. -/
theorem sameButDeadLanes_serve {s t : State} (h : SameButDeadLanes s t) (r : Request) :
    ∃ s' t', serve r s = .next s' ∧ serve r t = .next t' ∧ SameButDeadLanes s' t' := by
  cases hr : decode r with
  | ok i => exact ⟨_, _, serve_of_decode_ok s hr, serve_of_decode_ok t hr, sameButDeadLanes_issue h i⟩
  | error e => exact ⟨_, _, serve_of_reserved hr, serve_of_reserved hr, sameButDeadLanes_whenClear_raise h _⟩

/-- Settles O30: both states have the same event next, and each kind of event keeps the relation. -/
theorem staleLanesAreNeverObserved : Obligations.StaleLanesAreNeverObserved := by
  intro s t h
  have hq := requests_eq_of_sameButDeadLanes h
  cases hs : s.requests with
  | nil => exact .inl ⟨rfl, step_of_nil hs, step_of_nil (hq.trans hs)⟩
  | cons e rest =>
    have hrest := sameButDeadLanes_setRequests h rest
    cases e with
    | reset =>
      exact .inr ⟨_, _, step_of_reset hs, step_of_reset (hq.trans hs), sameButDeadLanes_resetBlock hrest⟩
    | request r =>
      rw [step_of_request hs, step_of_request (hq.trans hs)]
      exact .inr (sameButDeadLanes_serve hrest r)

end Sys2Proof.Proofs
end

section
/-! PROOFS. The output stream: `TX` is whole frames (R28, R81) that a reader cuts apart again (R49, R62). -/

namespace Sys2Proof.Proofs

open Sys2Proof.Machine Sys2Proof.Safety Sys2Proof.Laws

/-! ### Whole frames (R28, R81) -/

theorem wholeFrames_nil : WholeFrames [] := ⟨[], by simp, rfl⟩

theorem wholeFrames_append_frame {tx : List Byte} {i : Instr} (h : WholeFrames tx) (hw : i.wellFormed = true) :
    WholeFrames (tx ++ frame i) := by
  obtain ⟨ops, hops, rfl⟩ := h
  exact ⟨ops ++ [i], by simpa [or_imp, forall_and, hw] using hops, by simp⟩

theorem wholeFrames_issue (i : Instr) {s : State} (h : WholeFrames s.tx) : WholeFrames (issue i s).tx := by
  obtain htx | ⟨-, hw, htx⟩ := tx_of_issued (issued i s)
  · exact htx ▸ h
  · exact htx ▸ wholeFrames_append_frame h hw

/-- A reserved request emits nothing, whether a fault stands or not. -/
theorem tx_whenClear_raise (f : BlockFault) (s : State) : (whenClear s (raise f s)).tx = s.tx := by
  obtain ⟨-, h⟩ | ⟨g, -, h⟩ := whenClear_cases s (raise f s) <;> rw [h] <;> rfl

/-- Settles O34: a reset empties `TX`, a reserved request leaves it, an operation adds at most its own frame. -/
theorem everyStepKeepsWholeFrames : Obligations.EveryStepKeepsWholeFrames := by
  intro s t h hstep
  obtain ⟨rest, ⟨-, rfl⟩ | ⟨r, -, ⟨i, -, rfl⟩ | ⟨e, -, rfl⟩⟩⟩ := step_cases hstep
  · exact wholeFrames_nil
  · exact wholeFrames_issue i h
  · rw [tx_whenClear_raise]
    exact h

/-- Settles O35: `TX` is empty at reset. -/
theorem txHoldsWholeFramesAtReset : Obligations.TxHoldsWholeFramesAtReset := wholeFrames_nil

/-! ### Cutting frames (R49) -/

theorem cutFramesFuel_ctrlFrame {cmd : Word} (h : cmd ≠ 1) (fuel : Nat) (t : List Byte) :
    cutFramesFuel (fuel + 1) (ctrlFrame cmd ++ t) = (cutFramesFuel fuel t).map (.ctrl cmd :: ·) := by
  have hlen : ¬ (ctrlFrame cmd ++ t).length < 4 := by simp [ctrlFrame_length]
  rw [cutFramesFuel_succ fuel (by simp [ctrlFrame, bytesOfWord]), if_neg hlen, ctrlFrame, leadingWord_bytesOfWord,
    if_neg h]
  rfl

theorem cutFramesFuel_dataFrame {p : List Byte} (hp : p.length ≤ 64) (fuel : Nat) (t : List Byte) :
    cutFramesFuel (fuel + 1) (dataFrame p ++ t) =
      (cutFramesFuel fuel t).map (.data (payloadChecksum p) (padPayload p) :: ·) := by
  have hlen := dataFrame_length hp
  have hdata : leadingWord (dataFrame p ++ t) = 1 := by
    rw [dataFrame, List.append_assoc, List.append_assoc, leadingWord_bytesOfWord]
    rfl
  have hbody : (dataFrame p).drop 4 = bytesOfWord (payloadChecksum p) ++ padPayload p := rfl
  rw [cutFramesFuel_succ fuel (List.ne_nil_of_length_pos (by simp [hlen])), if_neg (by simp [hlen]; omega),
    if_pos hdata, if_neg (by simp [hlen]), List.take_left' hlen, List.drop_left' hlen, hbody, leadingWord_bytesOfWord]
  rfl

/-- The frame of any PF operation with a legal operand is cut off whole. -/
theorem cutFramesFuel_frame {i : Instr} (hi : IsPf i = true) (hw : i.wellFormed = true) (fuel : Nat) (t : List Byte) :
    cutFramesFuel (fuel + 1) (frame i ++ t) = (cutFramesFuel fuel t).map (wireFrames i ++ ·) := by
  cases i with
  | csInit | csByte _ | csFinish => cases hi
  | pfStart => exact cutFramesFuel_ctrlFrame (by decide) fuel t
  | pfData p => exact cutFramesFuel_dataFrame (wellFormed_pfData.mp hw) fuel t
  | pfReset => exact cutFramesFuel_ctrlFrame (by decide) fuel t

theorem frame_length_pos {i : Instr} (hi : IsPf i = true) : 0 < (frame i).length := by
  cases i with
  | csInit | csByte _ | csFinish => cases hi
  | pfStart | pfReset => decide
  | pfData p => simp [frame, dataFrame]

/-- The CE operations emit nothing, so a reader finds nothing of them. -/
theorem frame_of_not_isPf {i : Instr} (hi : ¬ IsPf i = true) : frame i = [] ∧ wireFrames i = [] := by
  cases i with
  | csInit | csByte _ | csFinish => exact ⟨rfl, rfl⟩
  | pfStart | pfData _ | pfReset => exact absurd rfl hi

/-- Each frame uses one unit of fuel and at least one byte, so as much fuel as bytes is enough. -/
theorem cutFramesFuel_flatMap_frame {ops : List Instr} (hops : ∀ i ∈ ops, i.wellFormed = true) {fuel : Nat}
    (hfuel : (ops.flatMap frame).length ≤ fuel) :
    cutFramesFuel fuel (ops.flatMap frame) = some (ops.flatMap wireFrames) := by
  induction ops generalizing fuel with
  | nil => exact cutFramesFuel_nil fuel
  | cons i ops ih =>
    obtain ⟨hw, hops⟩ := List.forall_mem_cons.mp hops
    rw [List.flatMap_cons] at hfuel ⊢
    rw [List.flatMap_cons]
    by_cases hi : IsPf i = true
    · have hpos := frame_length_pos hi
      rw [List.length_append] at hfuel
      obtain ⟨n, rfl⟩ : ∃ n, fuel = n + 1 := ⟨fuel - 1, by omega⟩
      rw [cutFramesFuel_frame hi hw, ih hops (by omega)]
      rfl
    · obtain ⟨hframe, hwire⟩ := frame_of_not_isPf hi
      rw [hframe] at hfuel ⊢
      rw [hwire]
      exact ih hops hfuel

/-- Settles O37: the reader's fuel is the number of bytes. -/
theorem aReaderCutsTxIntoItsFrames : Obligations.AReaderCutsTxIntoItsFrames :=
  fun _ hops => cutFramesFuel_flatMap_frame hops le_rfl

/-! ### `DATA` frames (R47, R51, R62) -/

theorem length_of_mem_chunks {bs c : List Byte} (h : c ∈ chunks bs) :
    c.length ≤ 64 ∧ (bs.length % 64 = 0 → c.length = 64) := by
  obtain ⟨i, hi⟩ := List.mem_iff_getElem?.mp h
  obtain ⟨hlt, hlen⟩ := length_of_chunks_getElem? hi
  rw [length_chunks] at hlt
  omega

/-- Every chunk is a legal payload. -/
theorem wellFormed_of_mem_chunks {bs : List Byte} : ∀ i ∈ (chunks bs).map Instr.pfData, i.wellFormed = true := by
  intro i hi
  obtain ⟨c, hc, rfl⟩ := List.mem_map.mp hi
  exact wellFormed_pfData.mpr (length_of_mem_chunks hc).1

theorem padPayload_of_full {p : List Byte} (h : p.length = 64) : padPayload p = p := by
  simp [padPayload_eq, h]

/-- The payloads that a reader finds in `DATA` frames are the padded ones. -/
theorem extractPayloads_wireFrames (cs : List (List Byte)) :
    extractPayloads ((cs.map .pfData).flatMap wireFrames) = (cs.map padPayload).flatten := by
  induction cs with
  | nil => rfl
  | cons c cs ih => exact congrArg (padPayload c ++ ·) ih

/-- Settles O38: the checksum field is the sum over the padded payload; full chunks are their own padded payloads. -/
theorem dataFramesCarryTheirChecksumAndRoundTrip : Obligations.DataFramesCarryTheirChecksumAndRoundTrip := by
  refine ⟨fun p hp => ⟨dataFrame_length hp, rfl, ?_, rfl⟩, fun bs hbs => ?_⟩
  · have hfield : (frame (.pfData p)).drop 4 = bytesOfWord (payloadChecksum p) ++ padPayload p := rfl
    rw [hfield, leadingWord_bytesOfWord]
    exact checksum_of_aligned (s := padPayload p) (by rw [padPayload_length hp])
  · refine ⟨_, aReaderCutsTxIntoItsFrames _ wellFormed_of_mem_chunks, ?_⟩
    have hfull : (chunks bs).map padPayload = chunks bs :=
      (List.map_congr_left fun c hc => padPayload_of_full ((length_of_mem_chunks hc).2 hbs)).trans (List.map_id _)
    rw [extractPayloads_wireFrames, hfull, flatten_chunks]

/-! ### What a list of operations emits (R28, R42) -/

/-- What an operation with this answer emits. -/
def emitted (i : Instr) (a : Response) : List Byte := if a = .ok then frame i else []

theorem successfulFrames_cons (i : Instr) (a : Response) (ops : List Instr) (as : List Response) :
    successfulFrames (i :: ops) (a :: as) = emitted i a ++ successfulFrames ops as := rfl

/-- The answer to an operation tells what it emitted, and is `ok` only where the operand is legal. -/
theorem answer_of_issued {s t : State} {i : Instr} (h : Issued s i t) :
    ∃ a, t.responses = s.responses ++ [a] ∧ t.tx = s.tx ++ emitted i a ∧ (a = .ok → i.wellFormed = true) := by
  cases h with
  | refused i f => exact ⟨.fault f, rfl, (List.append_nil _).symm, nofun⟩
  | init => exact ⟨.ok, rfl, (List.append_nil _).symm, fun _ => rfl⟩
  | byte b => exact ⟨.ok, by simp, by simp [emitted, frame], fun _ => rfl⟩
  | word => exact ⟨.okWord s.acc, rfl, (List.append_nil _).symm, nofun⟩
  | misaligned => exact ⟨.fault .invalidLength, rfl, (List.append_nil _).symm, nofun⟩
  | framed i _ _ hw => exact ⟨.ok, rfl, rfl, fun _ => hw⟩
  | oversized p => exact ⟨.fault .payloadTooLarge, rfl, (List.append_nil _).symm, nofun⟩

/-- Each operation of a list gets an answer, and together they tell what the list emitted. -/
theorem exists_answers (ops : List Instr) (s : State) :
    ∃ answers : List Response,
      answers.length = ops.length ∧ (issueAll ops s).responses = s.responses ++ answers ∧
        (issueAll ops s).tx = s.tx ++ successfulFrames ops answers ∧
        ∀ a ∈ ops.zip answers, a.2 = .ok → a.1.wellFormed = true := by
  induction ops generalizing s with
  | nil => exact ⟨[], rfl, (List.append_nil _).symm, (List.append_nil _).symm, by simp⟩
  | cons i ops ih =>
    obtain ⟨a, hresponses, htx, hok⟩ := answer_of_issued (issued i s)
    obtain ⟨as, hlen, hresponses', htx', hok'⟩ := ih (issue i s)
    refine ⟨a :: as, congrArg (· + 1) hlen, ?_, ?_, List.forall_mem_cons.mpr ⟨hok, hok'⟩⟩
    · rw [issueAll_cons, hresponses', hresponses, List.append_assoc, List.singleton_append]
    · rw [issueAll_cons, htx', htx, successfulFrames_cons, List.append_assoc]

/-- The lengths of the frames: 4 bytes for `START` and `RESET`, 72 for `DATA` (R46, R47). -/
theorem length_emitted {i : Instr} {a : Response} (h : a = .ok → i.wellFormed = true) :
    (emitted i a).length =
      4 * (if (i = .pfStart ∨ i = .pfReset) ∧ a = .ok then 1 else 0) +
        72 * (if IsPf i = true ∧ i ≠ .pfStart ∧ i ≠ .pfReset ∧ a = .ok then 1 else 0) := by
  by_cases ha : a = .ok
  · cases i with
    | csInit | csByte _ | csFinish => simp [emitted, frame, IsPf]
    | pfStart | pfReset => simp [emitted, frame, ha, ctrlFrame_length]
    | pfData p => simp [emitted, frame, ha, IsPf, dataFrame_length (wellFormed_pfData.mp (h ha))]
  · simp [emitted, ha]

theorem length_successfulFrames {ops : List Instr} {answers : List Response}
    (h : ∀ a ∈ ops.zip answers, a.2 = .ok → a.1.wellFormed = true) :
    (successfulFrames ops answers).length =
      4 * (ops.zip answers).countP (fun a => (a.1 = .pfStart ∨ a.1 = .pfReset) ∧ a.2 = .ok) +
        72 * (ops.zip answers).countP (fun a => IsPf a.1 = true ∧ a.1 ≠ .pfStart ∧ a.1 ≠ .pfReset ∧ a.2 = .ok) := by
  induction ops generalizing answers with
  | nil => rfl
  | cons i ops ih =>
    cases answers with
    | nil => rfl
    | cons a as =>
      obtain ⟨hok, hrest⟩ := List.forall_mem_cons.mp h
      rw [successfulFrames_cons, List.length_append, length_emitted hok, ih hrest, List.zip_cons_cons,
        List.countP_cons, List.countP_cons]
      simp only [decide_eq_true_eq]
      ring

/-- Settles O36: the answers are those of the operations one by one, and each frame's length is its format's. -/
theorem txIsTheFramesOfTheSuccessfulOperations : Obligations.TxIsTheFramesOfTheSuccessfulOperations := by
  intro ops s
  obtain ⟨answers, hlen, hresponses, htx, hok⟩ := exists_answers ops s
  exact ⟨answers, hlen, hresponses, htx, length_successfulFrames hok⟩

/-! ### Which operations may be repeated (R39) -/

theorem startSum_of_started {s : State} (hacc : s.acc = Config.seed) (hbcnt : s.bcnt = 0) : startSum s = s := by
  rw [startSum, constants_seed, ← hacc, ← hbcnt]

theorem absorb_bcnt_ne (b : Byte) (s : State) : (absorb b s).bcnt ≠ s.bcnt := by
  intro heq
  by_cases hb : s.bcnt.toNat = 3
  · have hzero := (absorb_complete_acc_bcnt b hb).2
    rw [heq] at hzero
    omega
  · have hsucc := (absorb_partial_acc_bcnt b (by have := s.bcnt.isLt; omega : s.bcnt.toNat < 3)).2
    rw [heq] at hsucc
    omega

/-- Settles O17: a second `CS.INIT` finds the sum started, `CS.FINISH` at a word boundary writes nothing, a byte always
moves `BCNT`, and a frame is never empty. -/
theorem whichOperationsMayBeRepeated : Obligations.WhichOperationsMayBeRepeated := by
  intro s hs
  refine ⟨⟨_, exec_csInit hs, ?_⟩, fun hb => ⟨_, ?_, rfl, ?_⟩, fun b => ⟨_, exec_csByte b hs, absorb_bcnt_ne b s⟩,
    fun i hi hw => ⟨_, exec_eq_issue i s, ?_⟩⟩
  · rw [exec_csInit (s := respond .ok (startSum s)) hs, startSum_of_started rfl rfl]
    rfl
  · exact exec_csFinish_aligned hs (congrArg _ hb)
  · exact exec_csFinish_aligned (s := respond (.okWord s.acc) s) hs (congrArg _ hb)
  · have hpos := frame_length_pos hi
    rw [issue_pf_wellFormed hi hs hw]
    refine ⟨hs, rfl, ?_⟩
    rw [respond_tx, emit_tx, List.length_append]
    omega

end Sys2Proof.Proofs
end

section
/-! PROOFS. The algebra of the function `CHECKSUM` (R72): concatenation, constant words, word order, one byte changed. -/

namespace Sys2Proof.Proofs

open Sys2Proof.Machine Sys2Proof.Safety Sys2Proof.Laws

/-! ### Concatenation and constant words (R72 (a), (c), (d)) -/

theorem checksum_append {s t : List Byte} {v w : Word} (hs : checksum s = .ok v) (ht : checksum t = .ok w) :
    checksum (s ++ t) = .ok (v + w - Config.seed) := by
  obtain ⟨hslen, rfl⟩ := checksum_eq_ok hs
  obtain ⟨htlen, rfl⟩ := checksum_eq_ok ht
  rw [checksum_of_aligned (by rw [List.length_append]; omega), sumWords_append _ _ _ hslen,
    sumWords_eq_add (sumWords Config.seed s) t, sumWords_eq_add Config.seed t]
  congr 1
  ring

theorem checksum_append_word {s : List Byte} {v : Word} (h : checksum s = .ok v) (b0 b1 b2 b3 : Byte) :
    checksum (s ++ [b0, b1, b2, b3]) = .ok (v + wordOfBytes b0 b1 b2 b3) := by
  have hword : checksum [b0, b1, b2, b3] = .ok (Config.seed + wordOfBytes b0 b1 b2 b3) :=
    checksum_of_aligned (by simp)
  rw [checksum_append h hword]
  congr 1
  ring

theorem wordOfBytes_ones : wordOfBytes 0xFF 0xFF 0xFF 0xFF = -1 := by decide

/-- Each word of ones takes one away. -/
theorem checksum_replicate_ones (m : Nat) :
    checksum (List.replicate (4 * m) 0xFF) = .ok (Config.seed - BitVec.ofNat 32 m) := by
  induction m with
  | zero => exact (checksum_of_aligned rfl).trans (congrArg _ (BitVec.sub_zero _).symm)
  | succ m ih =>
    have hsplit : List.replicate (4 * (m + 1)) (0xFF : Byte) =
        List.replicate (4 * m) 0xFF ++ [0xFF, 0xFF, 0xFF, 0xFF] := by
      rw [Nat.mul_succ, List.replicate_add]
      rfl
    rw [hsplit, checksum_append_word ih, wordOfBytes_ones, BitVec.ofNat_add, ← sub_eq_add_neg, sub_sub]
    rfl

/-- Settles O10: concatenation is addition, and the constant words are cases of one word appended. -/
theorem checksumOfConcatenationAndOfConstantWords : Obligations.ChecksumOfConcatenationAndOfConstantWords := by
  refine fun s t v w hs ht => ⟨checksum_append hs ht, ?_, ?_, checksum_replicate_ones⟩
  · exact (checksum_append_word hs _ _ _ _).trans (congrArg _ (BitVec.add_zero v))
  · rw [checksum_append_word hs, wordOfBytes_ones, ← sub_eq_add_neg]

/-! ### The order of words (R72 (b)) -/

theorem sumWords_flatMap_bytesOfWord (ws : List Word) (acc : Word) :
    sumWords acc (ws.flatMap bytesOfWord) = acc + ws.sum := by
  induction ws generalizing acc with
  | nil => exact (BitVec.add_zero acc).symm
  | cons w ws ih =>
    have hfirst : sumWords acc ((w :: ws).flatMap bytesOfWord) = sumWords (acc + w) (ws.flatMap bytesOfWord) :=
      congrArg (fun u => sumWords (acc + u) _) (wordOfBytes_bytesOfWord w)
    rw [hfirst, ih, List.sum_cons, BitVec.add_assoc]

theorem checksum_flatMap_bytesOfWord (ws : List Word) :
    checksum (ws.flatMap bytesOfWord) = .ok (Config.seed + ws.sum) := by
  have hlen : (ws.flatMap bytesOfWord).length = ws.length * 4 := by
    simp [List.length_flatMap]
  rw [checksum_of_aligned (by omega), sumWords_flatMap_bytesOfWord]

/-- Settles O11: the checksum of words is `SEED` plus their sum, which no permutation changes. -/
theorem checksumIgnoresTheOrderOfWords : Obligations.ChecksumIgnoresTheOrderOfWords := by
  intro ws ws' h
  rw [checksum_flatMap_bytesOfWord, checksum_flatMap_bytesOfWord, h.sum_eq]

/-! ### One byte changed (R72 (e)) -/

/-- R32 as a sum of words. -/
theorem wordOfBytes_eq_sum (b0 b1 b2 b3 : Byte) :
    wordOfBytes b0 b1 b2 b3 =
      b0.setWidth 32 + BitVec.ofNat 32 (2 ^ 8) * b1.setWidth 32 + BitVec.ofNat 32 (2 ^ 16) * b2.setWidth 32 +
        BitVec.ofNat 32 (2 ^ 24) * b3.setWidth 32 := by
  rw [← BitVec.setWidth_eq (wordOfBytes b0 b1 b2 b3), ← BitVec.ofNat_toNat, wordOfBytes_toNat]
  simp only [BitVec.ofNat_add, BitVec.ofNat_mul, BitVec.ofNat_toNat]

/-- What the sum gains when byte `n` of the input goes from `x` to `y` (R72 (e)). -/
def byteChange (x y : Byte) (n : Nat) : Word :=
  (y.setWidth 32 - x.setWidth 32) * BitVec.ofNat 32 (2 ^ (8 * (n % 4)))

/-- One byte of a word set. -/
theorem wordOfBytes_change (b0 b1 b2 b3 y : Byte) :
    wordOfBytes y b1 b2 b3 = wordOfBytes b0 b1 b2 b3 + byteChange b0 y 0 ∧
      wordOfBytes b0 y b2 b3 = wordOfBytes b0 b1 b2 b3 + byteChange b1 y 1 ∧
      wordOfBytes b0 b1 y b3 = wordOfBytes b0 b1 b2 b3 + byteChange b2 y 2 ∧
      wordOfBytes b0 b1 b2 y = wordOfBytes b0 b1 b2 b3 + byteChange b3 y 3 := by
  have hw0 : BitVec.ofNat 32 (2 ^ (8 * (0 % 4))) = 1 := rfl
  have hw1 : BitVec.ofNat 32 (2 ^ (8 * (1 % 4))) = BitVec.ofNat 32 (2 ^ 8) := rfl
  have hw2 : BitVec.ofNat 32 (2 ^ (8 * (2 % 4))) = BitVec.ofNat 32 (2 ^ 16) := rfl
  have hw3 : BitVec.ofNat 32 (2 ^ (8 * (3 % 4))) = BitVec.ofNat 32 (2 ^ 24) := rfl
  simp only [wordOfBytes_eq_sum, byteChange, hw0, hw1, hw2, hw3]
  refine ⟨?_, ?_, ?_, ?_⟩ <;> ring

/-- A change of the first word is a change of the sum. -/
theorem sumWords_cons_add (acc : Word) {d : Word} {b0 b1 b2 b3 c0 c1 c2 c3 : Byte} (rest : List Byte)
    (h : wordOfBytes c0 c1 c2 c3 = wordOfBytes b0 b1 b2 b3 + d) :
    sumWords acc (c0 :: c1 :: c2 :: c3 :: rest) = sumWords acc (b0 :: b1 :: b2 :: b3 :: rest) + d := by
  rw [sumWords_cons, sumWords_cons, h, sumWords_eq_add, sumWords_eq_add (acc + _)]
  ring

theorem sumWords_set {s : List Byte} (hs : s.length % 4 = 0) (acc : Word) {n : Nat} (h : n < s.length) (y : Byte) :
    sumWords acc (s.set n y) = sumWords acc s + byteChange s[n] y n := by
  induction s using bytes_induction generalizing acc n with
  | short s hshort => omega
  | word b0 b1 b2 b3 rest ih =>
    by_cases hn : n < 4
    · obtain ⟨h0, h1, h2, h3⟩ := wordOfBytes_change b0 b1 b2 b3 y
      interval_cases n
      · exact sumWords_cons_add acc rest h0
      · exact sumWords_cons_add acc rest h1
      · exact sumWords_cons_add acc rest h2
      · exact sumWords_cons_add acc rest h3
    · obtain ⟨k, rfl⟩ : ∃ k, n = k + 4 := ⟨n - 4, by omega⟩
      have hk : k < rest.length := by simp at h; omega
      have hbyte : byteChange rest[k] y (k + 4) = byteChange rest[k] y k := by
        rw [byteChange, byteChange, Nat.add_mod_right]
      exact (ih (by simp at hs; omega) _ hk).trans (congrArg _ hbyte.symm)

/-- A byte changed by less than 256 at a weight of at most 2^24 does not vanish modulo 2^32. -/
theorem byteChange_ne_zero {x y : Byte} (h : y ≠ x) (n : Nat) : byteChange x y n ≠ 0 := by
  intro hzero
  have hmul : y.setWidth 32 * BitVec.ofNat 32 (2 ^ (8 * (n % 4))) =
      x.setWidth 32 * BitVec.ofNat 32 (2 ^ (8 * (n % 4))) := by
    rw [← sub_eq_zero, ← sub_mul]
    exact hzero
  have hy := y.isLt
  have hx := x.isLt
  have hj : n % 4 < 4 := Nat.mod_lt _ (by decide)
  apply h
  apply BitVec.eq_of_toNat_eq
  have hnat := congrArg BitVec.toNat hmul
  simp only [BitVec.toNat_mul, BitVec.toNat_setWidth, BitVec.toNat_ofNat] at hnat
  generalize n % 4 = j at hj hnat
  interval_cases j <;> omega

/-- Settles O12: the sum changes by `byteChange`, which is never zero for a byte that changed. -/
theorem checksumDetectsEverySingleByteChange : Obligations.ChecksumDetectsEverySingleByteChange := by
  intro s v n h y hv
  obtain ⟨hlen, rfl⟩ := checksum_eq_ok hv
  refine ⟨_, checksum_of_aligned (by rwa [List.length_set]), sumWords_set hlen _ h y, fun hne => ?_⟩
  rw [sumWords_set hlen _ h y]
  simpa using byteChange_ne_zero hne n

end Sys2Proof.Proofs
end

section
/-! PROOFS. The host around the block: the firmware header (R90, R91), the acknowledgement's value (R96, R97), and the
Transfer Sequencer (R93 to R102). -/

namespace Sys2Proof.Proofs

open Sys2Proof.Machine Sys2Proof.Safety Sys2Proof.Laws

/-! ### The header (R90, R91) -/

theorem length_headerBytes (n : Nat) (cs : Word) : (headerBytes n cs).length = 4096 := by
  simp only [headerBytes, List.length_append, bytesOfWord_length, List.length_replicate]
  rfl

/-- Settles O39: the two words of the header that are not constants are read back as they were laid out. -/
theorem headerHasItsLayout : Obligations.HeaderHasItsLayout := by
  refine fun n cs hn => ⟨length_headerBytes n cs, rfl, rfl, ?_, ?_, rfl⟩
  · have hsize : leadingWord ((headerBytes n cs).drop 8) = BitVec.ofNat 32 n := wordOfBytes_bytesOfWord _
    rw [hsize, BitVec.toNat_ofNat, Nat.mod_eq_of_lt hn]
  · exact wordOfBytes_bytesOfWord cs

theorem lastResponse_of_responses {s : State} {before : List Response} {a : Response}
    (h : s.responses = before ++ [a]) : lastResponse s = some a := by
  rw [lastResponse, h, List.getLast?_concat]

/-- D26 (log 11). -/
theorem buildHeader_of_too_large {image : List Byte} (h : 2 ^ 32 ≤ image.length) (s : State) :
    buildHeader image s = (s, .error .imageTooLarge) :=
  if_neg (not_lt.mpr h)

/-- R91 for a whole number of words: the block delivers the checksum, and the header carries it. -/
theorem buildHeader_aligned {image : List Byte} {s : State} (hs : s.fault = none) (hsize : image.length < 2 ^ 32)
    (hlen : image.length % 4 = 0) :
    ∃ cs, checksum image = .ok cs ∧
      buildHeader image s = (issueAll (checksumOps image) s, .ok (headerBytes image.length cs)) ∧
      (issueAll (checksumOps image) s).fault = none ∧ (issueAll (checksumOps image) s).acc = cs ∧
      (issueAll (checksumOps image) s).bcnt = 0 ∧ (issueAll (checksumOps image) s).tx = s.tx := by
  obtain ⟨cs, hcs, hacc, hbcnt, hfault, htx, hresponses⟩ := checksumOps_aligned hs hlen
  refine ⟨cs, hcs, ?_, hfault, hacc, hbcnt, htx⟩
  simp only [buildHeader, if_pos hsize, lastResponse_of_responses hresponses]
  rfl

/-- R91 otherwise: the block's `InvalidLength`. -/
theorem buildHeader_misaligned {image : List Byte} {s : State} (hs : s.fault = none) (hsize : image.length < 2 ^ 32)
    (hlen : image.length % 4 ≠ 0) :
    buildHeader image s = (issueAll (checksumOps image) s, .error (.blockFault .invalidLength)) ∧
      (issueAll (checksumOps image) s).fault = some .invalidLength ∧ (issueAll (checksumOps image) s).tx = s.tx := by
  obtain ⟨hfault, htx, hresponses⟩ := checksumOps_misaligned hs hlen
  refine ⟨?_, hfault, htx⟩
  simp only [buildHeader, if_pos hsize, lastResponse_of_responses hresponses]

/-- Settles O40: the size is checked first, and then the length decides as it does for the stepwise checksum. -/
theorem headerIsBuiltOnTheBlock : Obligations.HeaderIsBuiltOnTheBlock := by
  refine fun image s hs => ⟨fun hlarge => buildHeader_of_too_large hlarge s, fun hsize hlen => ?_, fun hsize hlen => ?_⟩
  · exact ⟨_, buildHeader_misaligned hs hsize hlen⟩
  · obtain ⟨cs, hcs, hbuild, hfault, hacc, hbcnt, htx⟩ := buildHeader_aligned hs hsize hlen
    exact ⟨_, cs, hcs, hbuild, hfault, hacc, hbcnt, htx⟩

/-- Checksum-engine operations emit nothing, on a faulted block either. -/
theorem tx_issueAll_of_not_isPf {ops : List Instr} (h : ∀ i ∈ ops, ¬ IsPf i = true) (s : State) :
    (issueAll ops s).tx = s.tx := by
  induction ops generalizing s with
  | nil => rfl
  | cons i ops ih =>
    obtain ⟨hi, hops⟩ := List.forall_mem_cons.mp h
    rw [issueAll_cons, ih hops]
    exact (tx_of_issued (issued i s)).resolve_right fun hpf => hi hpf.1

theorem tx_issueAll_checksumOps (input : List Byte) (s : State) : (issueAll (checksumOps input) s).tx = s.tx := by
  refine tx_issueAll_of_not_isPf (fun i hi => ?_) s
  simp only [checksumOps, List.mem_cons, List.mem_append, List.mem_map, List.not_mem_nil, or_false] at hi
  obtain rfl | ⟨b, -, rfl⟩ | rfl := hi <;> exact Bool.false_ne_true

/-- Building the header emits nothing, whatever comes of it. -/
theorem tx_buildHeader (image : List Byte) (s : State) : (buildHeader image s).1.tx = s.tx := by
  rw [buildHeader]
  split
  · rw [← tx_issueAll_checksumOps image s]
    dsimp only
    split
    · split <;> rfl
    all_goals rfl
  · rfl

/-! ### The acknowledgement's value (R96, R97) -/

theorem signed32_eq_neg_one_iff (w : Word) : signed32 w = -1 ↔ w.toNat = 2 ^ 32 - 1 := by
  have := w.isLt
  rw [signed32]
  split <;> omega

theorem byte_eq_ones_iff (b : Byte) : b = 0xFF ↔ b.toNat = 255 := BitVec.toNat_inj.symm

/-- Two's complement: -1 is the word of ones, whose bytes are all ones. -/
theorem signed32_wordOfBytes_eq_neg_one_iff (b0 b1 b2 b3 : Byte) :
    signed32 (wordOfBytes b0 b1 b2 b3) = -1 ↔ b0 = 0xFF ∧ b1 = 0xFF ∧ b2 = 0xFF ∧ b3 = 0xFF := by
  have h0 := b0.isLt
  have h1 := b1.isLt
  have h2 := b2.isLt
  have h3 := b3.isLt
  rw [signed32_eq_neg_one_iff, wordOfBytes_toNat, byte_eq_ones_iff, byte_eq_ones_iff, byte_eq_ones_iff,
    byte_eq_ones_iff]
  omega

/-- Settles O42: the decoded value is -1 exactly for four bytes of ones. -/
theorem onlyMinusOneIsANegativeAcknowledgement : Obligations.OnlyMinusOneIsANegativeAcknowledgement := by
  intro b0 b1 b2 b3 checked
  simp only [judgeReply, decodeAck, host_nack, signed32_wordOfBytes_eq_neg_one_iff]

theorem judgeReply_of_accepted {reply : LinkReply} (h : Accepted reply) (checked : Bool) :
    judgeReply checked reply = none := by
  obtain ⟨b0, b1, b2, b3, rfl, hne⟩ := h
  rw [onlyMinusOneIsANegativeAcknowledgement, if_neg fun hall => hne hall.2]

theorem judgeReply_minus_one (checked : Bool) :
    judgeReply checked (.bytes [0xFF, 0xFF, 0xFF, 0xFF]) =
      if checked then some .negativeAcknowledgement else none := by
  rw [onlyMinusOneIsANegativeAcknowledgement]
  simp

/-! ### What the host does next, state by state (R94) -/

section
variable {ss : Session} {c : List Byte} {cs : List (List Byte)}

theorem advance_idle (h : ss.phase = .idle) : ss.advance = ss.send .pfStart .starting := by
  simp only [Session.advance, h]

theorem advance_starting (h : ss.phase = .starting) : ss.advance = ss.makeHeader := by
  simp only [Session.advance, h]

/-- Both stages that send chunks stay in their state while there is one. -/
theorem advance_chunk (h : ss.phase = .sendingHeader ∨ ss.phase = .sendingFirmware) (hp : ss.pending = c :: cs) :
    ss.advance = { ss with pending := cs }.send (.pfData c) ss.phase := by
  obtain h | h := h <;> simp only [Session.advance, h, hp]

theorem advance_header_sent (h : ss.phase = .sendingHeader) (hp : ss.pending = []) :
    ss.advance = { ss with phase := .sendingFirmware, pending := chunks ss.image } := by
  simp only [Session.advance, h, hp]

theorem advance_firmware_sent (h : ss.phase = .sendingFirmware) (hp : ss.pending = []) :
    ss.advance = ss.send .pfReset .finishing := by
  simp only [Session.advance, h, hp]

theorem advance_finishing (h : ss.phase = .finishing) : ss.advance = { ss with phase := .done } := by
  simp only [Session.advance, h]

theorem advance_of_final (h : ss.phase = .done ∨ ss.phase = .aborted) : ss.advance = ss := by
  obtain h | h := h <;> simp only [Session.advance, h]

end

/-- The outcomes of a step that awaits no acknowledgement. -/
inductive Advanced (ss : Session) : Session → Prop
  | sent (pending : List (List Byte)) (op : Instr) (next : Phase) (h : next = ss.phase ∨ next ∈ successors ss.phase)
      (hne : next ≠ .aborted) : Advanced ss ({ ss with pending := pending }.send op next)
  | built (h : ss.phase = .starting) : Advanced ss ss.makeHeader
  | turned (pending : List (List Byte)) (next : Phase) (h : next ∈ successors ss.phase) (hne : next ≠ .aborted) :
      Advanced ss { ss with phase := next, pending := pending }
  | final (h : ss.phase = .done ∨ ss.phase = .aborted) : Advanced ss ss

/-- A chunk of the header or of the image is sent. -/
theorem advanced_chunk {ss : Session} {c : List Byte} {cs : List (List Byte)}
    (h : ss.phase = .sendingHeader ∨ ss.phase = .sendingFirmware) (hp : ss.pending = c :: cs) :
    Advanced ss ss.advance := by
  rw [advance_chunk h hp]
  exact .sent cs (.pfData c) ss.phase (.inl rfl) (by obtain h | h := h <;> rw [h] <;> decide)

theorem advanced (ss : Session) : Advanced ss ss.advance := by
  cases h : ss.phase with
  | idle =>
    rw [advance_idle h]
    exact .sent ss.pending .pfStart .starting (.inr (by rw [h]; decide)) (by decide)
  | starting =>
    rw [advance_starting h]
    exact .built h
  | sendingHeader =>
    cases hp : ss.pending with
    | cons c cs => exact advanced_chunk (.inl h) hp
    | nil =>
      rw [advance_header_sent h hp]
      exact .turned _ .sendingFirmware (by rw [h]; decide) (by decide)
  | sendingFirmware =>
    cases hp : ss.pending with
    | cons c cs => exact advanced_chunk (.inr h) hp
    | nil =>
      rw [advance_firmware_sent h hp]
      exact .sent ss.pending .pfReset .finishing (.inr (by rw [h]; decide)) (by decide)
  | finishing =>
    rw [advance_finishing h]
    exact .turned ss.pending .done (by rw [h]; decide) (by decide)
  | done =>
    rw [advance_of_final (.inl h)]
    exact .final (.inl h)
  | aborted =>
    rw [advance_of_final (.inr h)]
    exact .final (.inr h)

/-- Building the header reads no reply, and ends in the next stage or `Aborted`. -/
theorem makeHeader_cases (ss : Session) :
    ss.makeHeader.link = ss.link ∧ ss.makeHeader.block = (buildHeader ss.image ss.block).1 ∧
      (ss.makeHeader.phase = .sendingHeader ∨ ss.makeHeader.phase = .aborted) := by
  rw [Session.makeHeader]
  dsimp only
  split
  · exact ⟨rfl, rfl, .inl rfl⟩
  · exact ⟨rfl, rfl, .inr rfl⟩

theorem sending_iff (ph : Phase) :
    ph.sending = true ↔ ph = .starting ∨ ph = .sendingHeader ∨ ph = .sendingFirmware ∨ ph = .finishing := by
  cases ph <;> decide

theorem final_of_not_sending (ph : Phase) : ph.sending = false → ph ≠ .idle → ph = .done ∨ ph = .aborted := by
  cases ph <;> decide

/-- A step reads the acknowledgement it awaits, or goes on. -/
theorem sequencer_step_cases (p : HostParams) (ss : Session) :
    ss.phase.sending = true ∧ ss.awaiting = true ∧ ss.step p = ss.collect p ∨
      (ss.phase.sending = false ∨ ss.awaiting = false) ∧ ss.step p = ss.advance := by
  cases hp : ss.phase.sending with
  | false => exact .inr ⟨.inl rfl, step_of_not_sending hp⟩
  | true =>
    cases ha : ss.awaiting with
    | false => exact .inr ⟨.inr rfl, step_of_not_awaiting ha⟩
    | true => exact .inl ⟨rfl, rfl, step_of_awaiting hp ha⟩

/-! ### The sequencer's order (R95, R98) -/

theorem collect_phase (p : HostParams) (ss : Session) :
    (ss.collect p).phase = .aborted ∨ (ss.collect p).phase = ss.phase := by
  obtain ⟨-, h | ⟨reply, rest, -, h⟩⟩ := collect_cases p ss
  · exact .inl h
  · exact .inr (by rw [h])

theorem aborted_mem_successors {ph : Phase} (h : ph.sending = true) : .aborted ∈ successors ph := by
  obtain rfl | rfl | rfl | rfl := (sending_iff ph).mp h <;> decide

/-- Going on without an acknowledgement keeps the order, and only building the header can fail. -/
theorem phase_of_advanced {ss t : Session} (h : Advanced ss t) :
    (t.phase = ss.phase ∨ t.phase ∈ successors ss.phase) ∧
      (t.phase = .aborted → ss.phase = .aborted ∨ ss.phase = .starting) := by
  cases h with
  | sent pending op next hnext hne => exact ⟨hnext, fun h => absurd h hne⟩
  | built hs =>
    obtain ⟨-, -, hph⟩ := makeHeader_cases ss
    refine ⟨.inr ?_, fun _ => .inr hs⟩
    obtain hph | hph := hph <;> rw [hph, hs] <;> decide
  | turned pending next hnext hne => exact ⟨.inr hnext, fun h => absurd h hne⟩
  | final hs => exact ⟨.inl rfl, .inl⟩

/-- Settles O48: the awaited read keeps the state or aborts from a sending one, and every other step is one of
`Advanced`. -/
theorem theSequencerGoesThroughItsStatesInOrder : Obligations.TheSequencerGoesThroughItsStatesInOrder := by
  intro p ss
  refine ⟨?_, fun habort hne => ?_, fun hfinal => ?_, fun hsending ha hok rest hlink => ?_⟩
  · obtain ⟨hs, -, hstep⟩ | ⟨-, hstep⟩ := sequencer_step_cases p ss <;> rw [hstep]
    · obtain h | h := collect_phase p ss
      · exact .inr (h ▸ aborted_mem_successors hs)
      · exact .inl h
    · exact (phase_of_advanced (advanced ss)).1
  · obtain ⟨hs, -, -⟩ | ⟨-, hstep⟩ := sequencer_step_cases p ss
    · exact (sending_iff _).mp hs
    · exact .inl (((phase_of_advanced (advanced ss)).2 (hstep ▸ habort)).resolve_left hne)
  · rw [step_of_not_sending (by obtain h | h := hfinal <;> rw [h] <;> rfl), advance_of_final hfinal]
  · rw [step_of_awaiting ((sending_iff _).mpr hsending) ha, collect_reply hok hlink]
    exact ⟨rfl, rfl, rfl⟩

/-- Going on reads no reply, and emits at most the frame of one PF operation, whose acknowledgement is then awaited. -/
theorem link_tx_of_advanced {ss t : Session} (h : Advanced ss t) :
    t.link = ss.link ∧
      (t.block.tx = ss.block.tx ∨
        ∃ i, IsPf i = true ∧ i.wellFormed = true ∧ t.block.tx = ss.block.tx ++ frame i ∧ t.awaiting = true) := by
  cases h with
  | sent pending op next =>
    refine ⟨rfl, (tx_of_issued (issued op ss.block)).imp_right ?_⟩
    rintro ⟨hi, hw, htx⟩
    exact ⟨op, hi, hw, htx, rfl⟩
  | built =>
    obtain ⟨hlink, hblock, -⟩ := makeHeader_cases ss
    exact ⟨hlink, .inl (hblock ▸ tx_buildHeader ss.image ss.block)⟩
  | turned => exact ⟨rfl, .inl rfl⟩
  | final => exact ⟨rfl, .inl rfl⟩

/-- Settles O44: the awaited read is one of the outcomes of `collect`, every other step one of `Advanced`. -/
theorem oneFrameForEachAcknowledgement : Obligations.OneFrameForEachAcknowledgement := by
  intro p ss
  obtain ⟨hs, ha, hstep⟩ | ⟨hna, hstep⟩ := sequencer_step_cases p ss <;> rw [hstep]
  · refine ⟨fun h => ?_, fun _ _ => ?_⟩
    · obtain h | h := h
      · cases ha.symm.trans h
      · rw [h] at hs
        cases hs
    · obtain ⟨hblock, habort | ⟨reply, rest, hlink, hcollect⟩⟩ := collect_cases p ss
      · exact ⟨hblock, fun _ hne => absurd habort hne⟩
      · exact ⟨hblock, fun _ _ => hcollect ▸ ⟨rfl, rfl, reply, hlink⟩⟩
  · refine ⟨fun _ => link_tx_of_advanced (advanced ss), fun ha hidle => ?_⟩
    have hfinal := final_of_not_sending ss.phase (hna.resolve_right (by simp [ha])) hidle
    rw [advance_of_final hfinal]
    exact ⟨rfl, fun hdone haborted => absurd hfinal (by simp [hdone, haborted])⟩

/-! ### A frame sent and its acknowledgement read (R98, R99) -/

/-- On a clear block a PF operation with a legal operand is answered `ok`, and the reply decides. -/
theorem step_of_send {p : HostParams} {ss : Session} {op : Instr} {next : Phase} {reply : LinkReply}
    {rest : List LinkReply} (hs : ss.block.fault = none) (hi : IsPf op = true) (hw : op.wellFormed = true)
    (hnext : next.sending = true) (hlink : ss.link = reply :: rest) :
    (ss.send op next).step p =
      ({ ss with phase := next, awaiting := false, link := rest, block := issue op ss.block } : Session).settle
        (judgeReply (p.checks next) reply) := by
  have hok : lastResponse (ss.send op next).block = some .ok := by
    rw [Session.send, issue_pf_wellFormed hi hs hw, lastResponse_respond]
  rw [step_of_awaiting hnext rfl, collect_reply hok hlink]
  rfl

theorem fault_issue_pf {i : Instr} {s : State} (hi : IsPf i = true) (hs : s.fault = none) (hw : i.wellFormed = true) :
    (issue i s).fault = none := by
  rw [issue_pf_wellFormed hi hs hw]
  exact hs

theorem tx_issue_pf {i : Instr} {s : State} (hi : IsPf i = true) (hs : s.fault = none) (hw : i.wellFormed = true) :
    (issue i s).tx = s.tx ++ frame i := by
  rw [issue_pf_wellFormed hi hs hw]
  rfl

/-- Settles O43: the chunk goes out, the reply is judged -1, and an aborted session stays as it is. -/
theorem aNegativeAcknowledgementAbortsForGood : Obligations.ANegativeAcknowledgementAbortsForGood := by
  intro p ss c cs rest n hph ha hp hc hs hlink
  have hw : (Instr.pfData c).wellFormed = true := wellFormed_pfData.mpr hc
  have hsending : ss.phase.sending = true := (sending_iff _).mpr (by tauto)
  have hchecks : p.checks ss.phase = true := by obtain h | h := hph <;> rw [h] <;> rfl
  have hsent : ss.step p = { ss with pending := cs }.send (.pfData c) ss.phase := by
    rw [step_of_not_awaiting ha, advance_chunk hph hp]
  have hread := step_of_send (p := p) (ss := { ss with pending := cs }) hs rfl hw hsending hlink
  rw [hchecks, judgeReply_minus_one] at hread
  rw [Session.run, Session.run, hsent, hread, run_of_aborted rfl]
  exact ⟨rfl, rfl, rfl, tx_issue_pf rfl hs hw, fault_issue_pf rfl hs hw⟩

/-- A frame whose acknowledgement is -1 in a state where a parameter decides whether that is checked (R100). -/
theorem step_of_send_minus_one {p : HostParams} {ss : Session} {op : Instr} {next : Phase} {rest : List LinkReply}
    (hs : ss.block.fault = none) (hi : IsPf op = true) (hw : op.wellFormed = true) (hnext : next.sending = true)
    (hlink : ss.link = .bytes [0xFF, 0xFF, 0xFF, 0xFF] :: rest) :
    ((ss.send op next).step p).phase = (if p.checks next then .aborted else next) ∧
      ((ss.send op next).step p).link = rest ∧ ((ss.send op next).step p).block = (ss.send op next).block := by
  rw [step_of_send hs hi hw hnext hlink, judgeReply_minus_one]
  cases p.checks next <;> exact ⟨rfl, rfl, rfl⟩

/-- Settles O45: both states send their frame, and the parameter is what the reply's value is checked by. -/
theorem theParametersDecideOnlyWhatMinusOneMeans : Obligations.TheParametersDecideOnlyWhatMinusOneMeans := by
  intro p ss rest hs hlink
  refine ⟨fun hph => ?_, fun hph ha hp => ?_⟩
  · rw [step_of_not_sending (by rw [hph]; rfl), advance_idle hph]
    exact ⟨rfl, tx_issue_pf rfl hs rfl, step_of_send_minus_one hs rfl rfl rfl hlink⟩
  · rw [step_of_not_awaiting ha, advance_firmware_sent hph hp]
    exact ⟨rfl, tx_issue_pf rfl hs rfl, step_of_send_minus_one hs rfl rfl rfl hlink⟩

end Sys2Proof.Proofs
end

section
/-! PROOFS. Whole transfers (R94, R102): a misaligned image stops after `START`, an acknowledged one reaches `Done`. -/

namespace Sys2Proof.Proofs

open Sys2Proof.Machine Sys2Proof.Safety Sys2Proof.Laws

/-! ### Runs between the points where nothing is awaited -/

/-- A session of a transfer that has not failed and awaits nothing. -/
def atRest (ph : Phase) (image : List Byte) (pending : List (List Byte)) (link : List LinkReply) (block : State) :
    Session where
  phase := ph
  image := image
  pending := pending
  awaiting := false
  link := link
  failure := none
  block := block

theorem start_eq_atRest (image : List Byte) (link : List LinkReply) (block : State) :
    Session.start image link block = atRest .idle image [] link block := rfl

/-- One session is reached from another in some number of steps. -/
def Reaches (p : HostParams) (ss t : Session) : Prop := ∃ n, Session.run p n ss = t

theorem run_add (p : HostParams) (m n : Nat) (ss : Session) :
    Session.run p (m + n) ss = Session.run p n (Session.run p m ss) := by
  induction m generalizing ss with
  | zero => rw [Nat.zero_add]; rfl
  | succ m ih => rw [Nat.succ_add, Session.run, ih]; rfl

section
variable {p : HostParams} {ss t u : Session}

theorem reaches_refl : Reaches p ss ss := ⟨0, rfl⟩

theorem reaches_trans (h : Reaches p ss t) (h' : Reaches p t u) : Reaches p ss u := by
  obtain ⟨m, rfl⟩ := h
  obtain ⟨n, rfl⟩ := h'
  exact ⟨m + n, run_add p m n ss⟩

theorem reaches_of_step (h : ss.step p = t) : Reaches p ss t := ⟨1, h⟩

end

section
variable {p : HostParams} {image : List Byte} {pending : List (List Byte)} {link : List LinkReply} {block : State}

/-- A frame sent and acknowledged. -/
theorem step_send_accepted {ph next : Phase} {op : Instr} {reply : LinkReply} (hs : block.fault = none)
    (hi : IsPf op = true) (hw : op.wellFormed = true) (hnext : next.sending = true) (hreply : Accepted reply) :
    ((atRest ph image pending (reply :: link) block).send op next).step p =
      atRest next image pending link (issue op block) := by
  rw [step_of_send (rest := link) hs hi hw hnext rfl, judgeReply_of_accepted hreply]
  rfl

theorem step_atRest {ph : Phase} :
    (atRest ph image pending link block).step p = (atRest ph image pending link block).advance :=
  step_of_not_awaiting rfl

theorem step_idle : (atRest .idle image pending link block).step p =
    (atRest .idle image pending link block).send .pfStart .starting :=
  step_atRest.trans (advance_idle rfl)

theorem step_starting : (atRest .starting image pending link block).step p =
    (atRest .starting image pending link block).makeHeader :=
  step_atRest.trans (advance_starting rfl)

/-- `START` sent and acknowledged. -/
theorem reaches_starting {reply : LinkReply} (hs : block.fault = none) (hreply : Accepted reply) :
    Reaches p (atRest .idle image pending (reply :: link) block)
      (atRest .starting image pending link (issue .pfStart block)) :=
  reaches_trans (reaches_of_step step_idle) (reaches_of_step (step_send_accepted hs rfl rfl rfl hreply))

end

/-! ### A misaligned image (C12) -/

theorem makeHeader_misaligned {ss : Session} (hs : ss.block.fault = none) (hsize : ss.image.length < 2 ^ 32)
    (hlen : ss.image.length % 4 ≠ 0) :
    ss.makeHeader =
      ({ ss with block := issueAll (checksumOps ss.image) ss.block } : Session).abort (.blockFault .invalidLength) := by
  simp only [Session.makeHeader, (buildHeader_misaligned hs hsize hlen).1]

/-- Settles O46: two steps send `START` and read its acknowledgement, the third raises the block's fault. -/
theorem aMisalignedImageStopsAfterStart : Obligations.AMisalignedImageStopsAfterStart := by
  intro p image reply link s n hs hsize hlen hreply
  have hs' : (issue .pfStart s).fault = none := fault_issue_pf rfl hs rfl
  obtain ⟨-, hfault, htx⟩ := buildHeader_misaligned hs' hsize hlen
  have hrun : Session.run p (n + 3) (Session.start image (reply :: link) s) =
      ({ atRest .starting image [] link (issue .pfStart s) with
        block := issueAll (checksumOps image) (issue .pfStart s) } : Session).abort (.blockFault .invalidLength) := by
    rw [Session.run, Session.run, Session.run, start_eq_atRest, step_idle, step_send_accepted hs rfl rfl rfl hreply,
      step_starting, makeHeader_misaligned hs' hsize hlen, run_of_aborted rfl]
    rfl
  rw [hrun]
  exact ⟨rfl, rfl, hfault, htx.trans (tx_issue_pf rfl hs rfl)⟩

/-! ### An acknowledged transfer (R94, R102) -/

section
variable {p : HostParams} {image : List Byte} {link : List LinkReply} {block : State}

/-- One chunk sent and acknowledged. -/
theorem reaches_chunk {ph : Phase} (hph : ph = .sendingHeader ∨ ph = .sendingFirmware) {c : List Byte}
    {cs : List (List Byte)} {reply : LinkReply} (hs : block.fault = none) (hc : c.length ≤ 64)
    (hreply : Accepted reply) :
    Reaches p (atRest ph image (c :: cs) (reply :: link) block)
      (atRest ph image cs link (issue (.pfData c) block)) := by
  have hsent : (atRest ph image (c :: cs) (reply :: link) block).step p =
      (atRest ph image cs (reply :: link) block).send (.pfData c) ph := by
    rw [step_atRest, advance_chunk hph rfl]
    rfl
  have hsending : ph.sending = true := (sending_iff ph).mpr (by tauto)
  exact reaches_trans (reaches_of_step hsent)
    (reaches_of_step (step_send_accepted hs rfl (wellFormed_pfData.mpr hc) hsending hreply))

/-- A whole stage: every chunk sent and acknowledged, by induction on the chunks. -/
theorem reaches_chunks {ph : Phase} (hph : ph = .sendingHeader ∨ ph = .sendingFirmware) {cs : List (List Byte)}
    (hs : block.fault = none) (hcs : ∀ c ∈ cs, c.length ≤ 64) (hlink : ∀ reply ∈ link, Accepted reply)
    (hlen : cs.length ≤ link.length) :
    Reaches p (atRest ph image cs link block)
      (atRest ph image [] (link.drop cs.length) (issueAll (cs.map .pfData) block)) := by
  induction cs generalizing link block with
  | nil => exact reaches_refl
  | cons c cs ih =>
    cases link with
    | nil => simp at hlen
    | cons reply link =>
      obtain ⟨hc, hcs⟩ := List.forall_mem_cons.mp hcs
      obtain ⟨hreply, hlink⟩ := List.forall_mem_cons.mp hlink
      exact reaches_trans (reaches_chunk hph hs hc hreply)
        (ih (fault_issue_pf rfl hs (wellFormed_pfData.mpr hc)) hcs hlink (Nat.le_of_succ_le_succ hlen))

theorem makeHeader_aligned {ss : Session} {header : List Byte} {t : State}
    (h : buildHeader ss.image ss.block = (t, .ok header)) :
    ss.makeHeader = { ss with block := t, phase := .sendingHeader, pending := chunks header } := by
  simp only [Session.makeHeader, h]

theorem reaches_header {pending : List (List Byte)} {header : List Byte} {t : State}
    (h : buildHeader image block = (t, .ok header)) :
    Reaches p (atRest .starting image pending link block) (atRest .sendingHeader image (chunks header) link t) :=
  reaches_of_step (step_starting.trans (makeHeader_aligned h))

theorem reaches_firmware : Reaches p (atRest .sendingHeader image [] link block)
    (atRest .sendingFirmware image (chunks image) link block) :=
  reaches_of_step (step_atRest.trans (advance_header_sent rfl rfl))

/-- `RESET` sent and acknowledged, and the transfer is over. -/
theorem reaches_done {reply : LinkReply} (hs : block.fault = none) (hreply : Accepted reply) :
    Reaches p (atRest .sendingFirmware image [] (reply :: link) block)
      (atRest .done image [] link (issue .pfReset block)) :=
  reaches_trans (reaches_of_step (step_atRest.trans (advance_firmware_sent rfl rfl)))
    (reaches_trans (reaches_of_step (step_send_accepted hs rfl rfl rfl hreply))
      (reaches_of_step (step_atRest.trans (advance_finishing rfl))))

end

/-! ### What the transfer leaves in the block -/

/-- PF operations with legal operands on a clear block leave it clear, keep `ACC`, and emit their frames. -/
theorem issueAll_pf {ops : List Instr} {s : State} (hs : s.fault = none)
    (hops : ∀ i ∈ ops, IsPf i = true ∧ i.wellFormed = true) :
    (issueAll ops s).fault = none ∧ (issueAll ops s).acc = s.acc ∧
      (issueAll ops s).tx = s.tx ++ ops.flatMap frame := by
  induction ops generalizing s with
  | nil => exact ⟨hs, rfl, (List.append_nil _).symm⟩
  | cons i ops ih =>
    obtain ⟨⟨hi, hw⟩, hops⟩ := List.forall_mem_cons.mp hops
    obtain ⟨hfault, hacc, htx⟩ := ih (fault_issue_pf hi hs hw) hops
    refine ⟨hfault, hacc.trans (issue_pf_acc hi s), ?_⟩
    rw [issueAll_cons, htx, tx_issue_pf hi hs hw, List.append_assoc, List.flatMap_cons]

/-- Chunks are sent as PF operations with legal operands (R92). -/
theorem pf_of_mem_chunks {bs : List Byte} :
    ∀ i ∈ (chunks bs).map Instr.pfData, IsPf i = true ∧ i.wellFormed = true := by
  intro i hi
  refine ⟨?_, wellFormed_of_mem_chunks i hi⟩
  obtain ⟨c, -, rfl⟩ := List.mem_map.mp hi
  rfl

/-- 72 bytes for each chunk (R102). -/
theorem length_chunk_frames (bs : List Byte) :
    (((chunks bs).map .pfData).flatMap frame).length = 72 * ((bs.length + 63) / 64) := by
  have hlengths : ∀ c ∈ chunks bs, (frame (.pfData c)).length = 72 :=
    fun c hc => dataFrame_length (length_of_mem_chunks hc).1
  rw [← length_chunks, List.flatMap_map, List.length_flatMap, List.map_congr_left hlengths]
  simp [Nat.mul_comm]

theorem length_transferFrames (image : List Byte) (cs : Word) :
    ((transferFrames image cs).flatMap frame).length = 4 + 72 * (64 + (image.length + 63) / 64) + 4 := by
  have hheader := length_chunk_frames (headerBytes image.length cs)
  have himage := length_chunk_frames image
  rw [length_headerBytes] at hheader
  simp only [transferFrames, List.flatMap_cons, List.flatMap_append, List.length_append, hheader, himage,
    frame_pfStart, frame_pfReset, List.flatMap_nil, List.length_cons, List.length_nil]
  ring

/-- The PF operations of a transfer after `START` and the building of the header. -/
def transferOps (image : List Byte) (cs : Word) : List Instr :=
  (chunks (headerBytes image.length cs)).map .pfData ++ (chunks image).map .pfData ++ [.pfReset]

theorem transferFrames_eq (image : List Byte) (cs : Word) :
    transferFrames image cs = .pfStart :: transferOps image cs := rfl

theorem pf_of_mem_transferOps {image : List Byte} {cs : Word} :
    ∀ i ∈ transferOps image cs, IsPf i = true ∧ i.wellFormed = true := by
  intro i hi
  rw [transferOps, List.append_assoc, List.mem_append, List.mem_append, List.mem_singleton] at hi
  obtain hi | hi | rfl := hi
  · exact pf_of_mem_chunks i hi
  · exact pf_of_mem_chunks i hi
  · exact ⟨rfl, rfl⟩

/-- From the built header on, one accepted reply for each frame takes the transfer to `Done`. -/
theorem reaches_done_of_header {p : HostParams} {image : List Byte} {cs : Word} {link : List LinkReply} {t : State}
    (ht : t.fault = none) (hlink : ∀ reply ∈ link, Accepted reply)
    (hlen : link.length = 64 + (image.length + 63) / 64 + 1) :
    Reaches p (atRest .sendingHeader image (chunks (headerBytes image.length cs)) link t)
      (atRest .done image [] [] (issueAll (transferOps image cs) t)) := by
  have hheader : (chunks (headerBytes image.length cs)).length = 64 := by rw [length_chunks, length_headerBytes]
  have himage := length_chunks image
  have hafter : ∀ reply ∈ link.drop 64, Accepted reply := fun reply h => hlink reply (List.mem_of_mem_drop h)
  have hdrop : (link.drop 64).length = (chunks image).length + 1 := by rw [List.length_drop]; omega
  obtain ⟨reply, hreply⟩ : ∃ reply, (link.drop 64).drop (chunks image).length = [reply] :=
    List.length_eq_one_iff.mp (by rw [List.length_drop]; omega)
  have hlast : Accepted reply := hafter reply (List.mem_of_mem_drop (by rw [hreply]; exact List.mem_singleton_self _))
  obtain ⟨hclear, -, -⟩ := issueAll_pf ht (pf_of_mem_chunks (bs := headerBytes image.length cs))
  obtain ⟨hclear', -, -⟩ := issueAll_pf hclear (pf_of_mem_chunks (bs := image))
  rw [transferOps, issueAll_append, issueAll_append]
  refine reaches_trans (reaches_chunks (.inl rfl) ht (fun c hc => (length_of_mem_chunks hc).1) hlink (by omega)) ?_
  rw [hheader]
  refine reaches_trans reaches_firmware
    (reaches_trans (reaches_chunks (.inr rfl) hclear (fun c hc => (length_of_mem_chunks hc).1) hafter (by omega)) ?_)
  rw [hreply]
  exact reaches_done hclear' hlast

/-- Settles O47: `START`, the header built, and then stage after stage; the frames sent are those of the operations. -/
theorem anAcknowledgedTransferSendsTheWholeImage : Obligations.AnAcknowledgedTransferSendsTheWholeImage := by
  intro p image link s hs hlen hsize hlink hcount
  cases link with
  | nil => simp at hcount
  | cons reply link =>
    obtain ⟨hreply, hlink⟩ := List.forall_mem_cons.mp hlink
    have hs' : (issue .pfStart s).fault = none := fault_issue_pf rfl hs rfl
    obtain ⟨cs, hcs, hbuild, hfault, hacc, -, htx⟩ := buildHeader_aligned hs' hsize hlen
    obtain ⟨n, hn⟩ : Reaches p (Session.start image (reply :: link) s) _ :=
      reaches_trans (reaches_starting hs hreply) (reaches_trans (reaches_header hbuild)
        (reaches_done_of_header hfault hlink (by rw [List.length_cons] at hcount; omega)))
    obtain ⟨hfault', hacc', htx'⟩ := issueAll_pf hfault (pf_of_mem_transferOps (image := image) (cs := cs))
    have hsent : (issueAll (transferOps image cs) (issueAll (checksumOps image) (issue .pfStart s))).tx =
        s.tx ++ (transferFrames image cs).flatMap frame := by
      rw [htx', htx, tx_issue_pf rfl hs rfl, List.append_assoc, transferFrames_eq, List.flatMap_cons]
    refine ⟨n, cs, hcs, ?_⟩
    rw [hn]
    refine ⟨rfl, rfl, rfl, hfault', hacc'.trans hacc, hsent, ?_⟩
    rw [← length_transferFrames image cs, ← List.length_append]
    exact congrArg List.length hsent

end Sys2Proof.Proofs
end
